-- ==== Sys2Proof/Word.lean ====
section
/-! DEFINITION. The word types of J1939-IPX (00_scope.md R7, R8): bit 0 is the least significant bit. -/

namespace Sys2Proof

/-- A command word (R60). -/
abbrev Word := BitVec 32

/-- A register on the data ports, and the payload port (R7: WDATA_W, RDATA_W, PAYLOAD_BITS). -/
abbrev Word64 := BitVec 64

/-- A byte of the payload, and a register number (R40, R43). -/
abbrev Byte := BitVec 8

end Sys2Proof
end

