-- ==== Sys2Proof/Config.lean ====
section
/-! DEFINITION. The parameters of R7 that the rules use by value, and the one free value. -/

namespace Sys2Proof.Config

/-- FRAC: fractional bits of scale, offset and physical value (R7). It affects only how a value is read. -/
def frac : Nat := 16

/-- MAX_BIT_WIDTH (R7). -/
def maxBitWidth : Nat := 8

/-- MAX_BYTE_OFFSET (R7). -/
def maxByteOffset : Nat := 7

/-- PAYLOAD_BITS (R7): the one payload length that is decoded (R115). -/
def payloadBits : Nat := 64

/-- FREE VALUE (log 3, DESIGN CHOICE, safe): the raw field of a FRAME performed with RUN = 1 and an active definition that R90
calls invalid. R27 says that no such state is reached, so no rule gives the value. A function of the operands, because equal
arguments give equal results (R96): byte offset, bit width and payload. No body: nothing can be proved about its value. -/
opaque freeRaw : Byte → Byte → Word64 → Byte

end Sys2Proof.Config
end

