-- ==== Sys2Proof/Syntax.lean ====
section
/-! DEFINITION. The commands of J1939-IPX: one constructor per row of spec/opcode_table.json (30_encoding.md R62). -/

namespace Sys2Proof

/-- The mapped registers of the register space (R63). -/
inductive Register where
  | cfgPgn | cfgByteOffset | cfgBitWidth | cfgScale | cfgOffset | cfgUnit
  | status | frameCount
  deriving DecidableEq, Repr

/-- The operations of R62. REG is the only operand inside the command word (R72); every value comes from the operand ports. -/
inductive Instr where
  | cfgWrite (reg : Register)
  | cfgRead (reg : Register)
  | start
  | stop
  | frame
  | idDecode
  | extract
  deriving DecidableEq, Repr

end Sys2Proof
end

