-- ==== Sys2Proof/WellFormed.lean ====
section
/-! DEFINITION. Which terms of Instr stand for a command word: all but CFG_WRITE of a read-only register (R64 (d), R137). -/

namespace Sys2Proof

/-- A term that some command word encodes. The one check: CFG_WRITE names a writable register (R64 (d)). -/
def Instr.wellFormed : Instr → Bool
  | .cfgWrite .status => false
  | .cfgWrite .frameCount => false
  | .cfgWrite .cfgPgn => true
  | .cfgWrite .cfgByteOffset => true
  | .cfgWrite .cfgBitWidth => true
  | .cfgWrite .cfgScale => true
  | .cfgWrite .cfgOffset => true
  | .cfgWrite .cfgUnit => true
  | .cfgRead _ => true
  | .start => true
  | .stop => true
  | .frame => true
  | .idDecode => true
  | .extract => true

end Sys2Proof
end

