-- ==== Sys2Proof/Decode.lean ====
section
/-! DEFINITION. The total decoder of R65 over command words, and after it the encoder, both from the tables of R60, R62, R63. -/

namespace Sys2Proof

/-- Why a command word is illegal: the cases of R64, by name. The response does not say which (R64, R67). -/
inductive Illegal where
  /-- R64 (b): MBZ is not zero. -/
  | mbzNotZero
  /-- R64 (a): OPC is 0x00 or in 0x08 to 0xFF. -/
  | reservedOpcode
  /-- R64 (c): REG is not zero where the operation takes none. -/
  | regNotZero
  /-- R64 (d): CFG_WRITE of a read-only or unmapped register number. -/
  | notWritable
  /-- R64 (e): CFG_READ of an unmapped register number. -/
  | unmappedRegister
  deriving DecidableEq, Repr

/-- OPC, bits [31:24] (R60). -/
def opcField (w : Word) : Byte := w.extractLsb' 24 8

/-- REG, bits [23:16] (R60). -/
def regField (w : Word) : Byte := w.extractLsb' 16 8

/-- MBZ, bits [15:0] (R60). -/
def mbzField (w : Word) : BitVec 16 := w.extractLsb' 0 16

/-- The register a number names (R63); every other number is unmapped. -/
def Register.ofNumber (n : Byte) : Option Register :=
  match n.toNat with
  | 0x00 => some .cfgPgn
  | 0x01 => some .cfgByteOffset
  | 0x02 => some .cfgBitWidth
  | 0x03 => some .cfgScale
  | 0x04 => some .cfgOffset
  | 0x05 => some .cfgUnit
  | 0x10 => some .status
  | 0x11 => some .frameCount
  | _ => none

/-- RW registers, the six staged configuration registers; STATUS and FRAME_COUNT are RO (R63). -/
def Register.writable : Register → Bool
  | .cfgPgn | .cfgByteOffset | .cfgBitWidth | .cfgScale | .cfgOffset | .cfgUnit => true
  | .status | .frameCount => false

/-- The operations without a register operand: REG must be zero (R64 (c)). -/
def decodePlain (reg : Byte) (i : Instr) : Except Illegal Instr :=
  if reg = 0 then .ok i else .error .regNotZero

/-- CFG_WRITE: REG is one of 0x00 to 0x05 (R64 (d)). -/
def decodeWrite (reg : Byte) : Except Illegal Instr :=
  match Register.ofNumber reg with
  | some r => if r.writable then .ok (.cfgWrite r) else .error .notWritable
  | none => .error .notWritable

/-- CFG_READ: REG is one of 0x00 to 0x05, 0x10, 0x11 (R64 (e)). -/
def decodeRead (reg : Byte) : Except Illegal Instr :=
  match Register.ofNumber reg with
  | some r => .ok (.cfgRead r)
  | none => .error .unmappedRegister

/-- The decoding procedure of R65, total on all words. MBZ is judged first, then OPC, then REG. -/
def decode (w : Word) : Except Illegal Instr :=
  if mbzField w ≠ 0 then .error .mbzNotZero
  else
    match (opcField w).toNat with
    | 0x01 => decodeWrite (regField w)
    | 0x02 => decodeRead (regField w)
    | 0x03 => decodePlain (regField w) .start
    | 0x04 => decodePlain (regField w) .stop
    | 0x05 => decodePlain (regField w) .frame
    | 0x06 => decodePlain (regField w) .idDecode
    | 0x07 => decodePlain (regField w) .extract
    | _ => .error .reservedOpcode

/-- Register numbers (R63). -/
def Register.number : Register → Byte
  | .cfgPgn => 0x00
  | .cfgByteOffset => 0x01
  | .cfgBitWidth => 0x02
  | .cfgScale => 0x03
  | .cfgOffset => 0x04
  | .cfgUnit => 0x05
  | .status => 0x10
  | .frameCount => 0x11

/-- OPC values (R62). -/
def Instr.opcode : Instr → Byte
  | .cfgWrite _ => 0x01
  | .cfgRead _ => 0x02
  | .start => 0x03
  | .stop => 0x04
  | .frame => 0x05
  | .idDecode => 0x06
  | .extract => 0x07

/-- The REG field of an operation: its register's number, or 0 (R60). -/
def Instr.regNumber : Instr → Byte
  | .cfgWrite reg => reg.number
  | .cfgRead reg => reg.number
  | .start => 0
  | .stop => 0
  | .frame => 0
  | .idDecode => 0
  | .extract => 0

/-- The command word of a well-formed operation (R60, R62, R63). -/
def encode (i : Instr) : Word := (i.opcode ++ i.regNumber) ++ (0 : BitVec 16)

/-- A word given as a number whose bits above `nbits` are 0, as a command word. There is one length, 32 bits (R60). -/
def wordOfBits (nbits w : Nat) : Word := BitVec.ofNat 32 (w % 2 ^ nbits)

/-- What the decoder reads from the bits of an opcode table row. -/
def decodeTableWord (nbits w : Nat) : Option Instr :=
  match decode (wordOfBits nbits w) with
  | .ok i => some i
  | .error _ => none

end Sys2Proof
end

