-- ==== Sys2Proof/Machine/State.lean ====
section
/-! DEFINITION. The state of the block (10_state.md R34) and, beside it, the host interface as plain data (R51, R61, R66). -/

namespace Sys2Proof.Machine

/-- A SignalDefinition, "{pgn, byte_offset, bit_width, scale, offset, unit}" (R22, R34). -/
structure SignalDefinition where
  /-- target PGN, every value legal (R23) -/
  pgn : BitVec 16
  /-- 0-based index of the payload byte; 8 bits, so that illegal values can be written (R24) -/
  byteOffset : Byte
  /-- width in bits; 8 bits, so that illegal values can be written (R25) -/
  bitWidth : Byte
  /-- two's complement, 16 fractional bits (R26) -/
  scale : BitVec 32
  /-- two's complement, 16 fractional bits (R26) -/
  offset : BitVec 32
  /-- opaque label, read by no computation (R28) -/
  unit : Word64
  deriving DecidableEq, Repr

/-- The whole state of the block: "exactly this record and nothing else" (R34). -/
structure Block where
  /-- staged configuration (R22) -/
  cfg : SignalDefinition
  /-- active configuration (R27) -/
  act : SignalDefinition
  /-- STATUS.RUN (R31) -/
  run : Bool
  /-- STATUS.FATAL (R32) -/
  fatal : Bool
  /-- STATUS.CERR_RANGE (R32) -/
  cerrRange : Bool
  /-- STATUS.CERR_WIDTH (R32) -/
  cerrWidth : Bool
  /-- frame position counter (R30) -/
  index : BitVec 32
  deriving DecidableEq, Repr

/-- The operand ports a command presents beside its word (R61). -/
structure Ports where
  fid : BitVec 32
  fdata : Word64
  flen : Byte
  ftag : Word64
  wdata : Word64
  deriving DecidableEq, Repr

/-- A command: "a 32-bit command word and the operand ports" (R6). -/
structure Command where
  word : Word
  ports : Ports
  deriving DecidableEq, Repr

/-- What the host does to the block: it presents a command (R51) or applies reset between commands (R170). -/
inductive HostEvent where
  | command (c : Command)
  | reset
  deriving DecidableEq, Repr

/-- Status codes 0 to 6 (R68); 7 to 15 are never produced and have no constructor (R68, U7). -/
inductive Status where
  | ok | noMatch | invalidIdentifier | malformedPayload | outOfRange | notRunning | illegalCommand
  deriving DecidableEq, Repr

/-- The response record (R66). A field that a response does not set is 0 (R67): that is each field's default here. -/
structure Response where
  status : Status
  prio : BitVec 3 := 0
  pgn : BitVec 16 := 0
  sa : Byte := 0
  raw : Byte := 0
  phys : Word64 := 0
  tag : Word64 := 0
  index : BitVec 32 := 0
  rdata : Word64 := 0
  deriving DecidableEq, Repr

/-- The decoded fields of an identifier, "{priority, pgn, source_address}" (R11, R80). Never kept in state (R84). -/
structure J1939Identifier where
  prio : BitVec 3
  pgn : BitVec 16
  sa : Byte
  deriving DecidableEq, Repr

/-- The machine: the block, and the host interface around it. `ports`, `inbox` and `responses` are the MODEL's own fields, not
state of the block (R34; log 1). -/
structure State where
  /-- the spec's State (R34) -/
  block : Block
  /-- the operand ports of the command being performed (R61) -/
  ports : Ports
  /-- what the host has presented and the block has not taken yet, oldest first (R46, R51) -/
  inbox : List HostEvent
  /-- the responses returned so far, oldest first (R46) -/
  responses : List Response
  deriving DecidableEq, Repr

/-- The block has no fault: "No error transfers control, saves state, raises a signal or stops the block" (R150). No constructor,
so no step ends in a fault (log 11). -/
inductive Fault where
  deriving DecidableEq, Repr

/-- Refusals. -/
inductive Refusal where
  /-- Raised by an arm of exec whose instruction has no meaning yet; safe. No arm raises it: every command is modelled. -/
  | notModelled (mnemonic : String)
  deriving DecidableEq, Repr

/-- All fields 0 (R35). -/
def SignalDefinition.reset : SignalDefinition :=
  { pgn := 0x0000, byteOffset := 0x00, bitWidth := 0x00, scale := 0x00000000, offset := 0x00000000, unit := 0x0000000000000000 }

/-- The reset value of every state element (R35). -/
def Block.reset : Block :=
  { cfg := SignalDefinition.reset, act := SignalDefinition.reset, run := false, fatal := false, cerrRange := false,
    cerrWidth := false, index := 0x00000000 }

/-- Ports before any command is presented: DESIGN CHOICE 0 (log 4, unsafe); every command drives its own ports. -/
def Ports.zero : Ports := { fid := 0, fdata := 0, flen := 0, ftag := 0, wdata := 0 }

/-- The machine right after reset: the block as R35 says, nothing presented and nothing answered yet (log 4). -/
def State.reset : State := { block := Block.reset, ports := Ports.zero, inbox := [], responses := [] }

end Sys2Proof.Machine
end

