-- ==== Sys2Proof/Machine/Operands.lean ====
section
/-! DEFINITION. Reading operands: identifier fields, payload characters and bytes, register fields (R40, R52, R72, R80, R131). -/

namespace Sys2Proof.Machine

/-- An identifier word is valid when raw[31:29] = 0 (R81). -/
def idValid (raw : BitVec 32) : Bool := raw.extractLsb' 29 3 == 0

/-- `decode_identifier` (R80): prio = raw[28:26], pgn = raw[23:8], sa = raw[7:0]; bits 25 and 24 are not read (R83). -/
def decodeIdentifier (raw : BitVec 32) : J1939Identifier :=
  { prio := raw.extractLsb' 26 3, pgn := raw.extractLsb' 8 16, sa := raw.extractLsb' 0 8 }

/-- The payload has the one length that is decoded: flen counts bits (R115). -/
def lengthOk (flen : Byte) : Bool := flen.toNat == Config.payloadBits

/-- Byte k of the payload, fdata[63-8k : 56-8k], k in 0 to 7 (R40). -/
def payloadByte (fdata : Word64) (k : Nat) : Byte := fdata.extractLsb' (56 - 8 * k) 8

/-- Character i of the payload string, fdata[63-i], i in 0 to 63 (R40). -/
def payloadChar (fdata : Word64) (i : Nat) : Bool := fdata.getLsbD (63 - i)

/-- `extract_raw` (R91), for k in 0 to 7 and w in 1 to 8: fdata[hi:lo] with hi = 63 - 8k and lo = hi - w + 1, zero-extended. -/
def extractRaw (fdata : Word64) (k w : Nat) : Byte :=
  (fdata.extractLsb' (64 - 8 * k - w) w).setWidth 8

/-- The staged configuration after a write of all 64 bits of `wdata` to one register: only the field bits are kept, with no
extension (R44, R130, R131). STATUS and FRAME_COUNT are read-only: nothing is written (R137). -/
def writeRegister (reg : Register) (wdata : Word64) (cfg : SignalDefinition) : SignalDefinition :=
  match reg with
  | .cfgPgn => { cfg with pgn := wdata.extractLsb' 0 16 }
  | .cfgByteOffset => { cfg with byteOffset := wdata.extractLsb' 0 8 }
  | .cfgBitWidth => { cfg with bitWidth := wdata.extractLsb' 0 8 }
  | .cfgScale => { cfg with scale := wdata.extractLsb' 0 32 }
  | .cfgOffset => { cfg with offset := wdata.extractLsb' 0 32 }
  | .cfgUnit => { cfg with unit := wdata.extractLsb' 0 64 }
  | .status => cfg
  | .frameCount => cfg

end Sys2Proof.Machine
end

