-- ==== Sys2Proof/Machine/Flags.lean ====
section
/-! DEFINITION. The validity judgement and the STATUS register (R29, R90), and the register read over them (R132). The block has
no condition codes (R33). -/

namespace Sys2Proof.Machine

/-- The 4-bit code of a status (R68). No command reads it. -/
def Status.code : Status → BitVec 4
  | .ok => 0
  | .noMatch => 1
  | .invalidIdentifier => 2
  | .malformedPayload => 3
  | .outOfRange => 4
  | .notRunning => 5
  | .illegalCommand => 6

/-- ceil(w / 8) over the naturals (R9). -/
def ceilBytes (w : Nat) : Nat := (w + 7) / 8

/-- Condition (a) of R90, over the integers with no wrap-around. -/
def cerrRange (k w : Byte) : Bool :=
  decide (k.toNat ≥ Config.maxByteOffset + 1 ∨ k.toNat + ceilBytes w.toNat > 8)

/-- Condition (b) of R90. -/
def cerrWidth (w : Byte) : Bool := decide (w.toNat = 0 ∨ w.toNat > Config.maxBitWidth)

/-- `valid_def` (R90). PGN, scale, offset and unit never make a definition invalid. -/
def validDef (k w : Byte) : Bool := !cerrRange k w && !cerrWidth w

/-- R90 on a definition. -/
def SignalDefinition.valid (d : SignalDefinition) : Bool := validDef d.byteOffset d.bitWidth

/-- One bit of STATUS as a 64-bit value. -/
def flagBit (b : Bool) : Word64 := (BitVec.ofBool b).setWidth 64

/-- STATUS: cerr_width << 3 | cerr_range << 2 | fatal << 1 | run; bits [63:4] read 0 (R29, R132). -/
def statusWord (b : Block) : Word64 :=
  flagBit b.cerrWidth <<< 3 ||| flagBit b.cerrRange <<< 2 ||| flagBit b.fatal <<< 1 ||| flagBit b.run

/-- The value CFG_READ returns (R132): every field zero-extended to 64 bits, signed fields included. Reads the staged
configuration, never the active one. -/
def readRegister (reg : Register) (b : Block) : Word64 :=
  match reg with
  | .cfgPgn => b.cfg.pgn.setWidth 64
  | .cfgByteOffset => b.cfg.byteOffset.setWidth 64
  | .cfgBitWidth => b.cfg.bitWidth.setWidth 64
  | .cfgScale => b.cfg.scale.setWidth 64
  | .cfgOffset => b.cfg.offset.setWidth 64
  | .cfgUnit => b.cfg.unit
  | .status => statusWord b
  | .frameCount => b.index.setWidth 64

end Sys2Proof.Machine
end

