-- ==== Sys2Proof/Machine/Ops.lean ====
section
/-! DEFINITION. The shared operations: performing one command as one atomic step with one response (R6, R45, R46), an illegal
word (R64, R157), and reset (R170). The block takes no trap and has nothing to return from (R160): there is no exception entry. -/

namespace Sys2Proof.Machine

/-- What a command does: from the block and the operand ports, the next block and the response, `step : State × Command →
State × Response` (R6). -/
abbrev Effect := Block → Ports → Block × Response

/-- The machine after a command: its block, and one more response after all earlier ones (R46). -/
def State.answer (s : State) (b : Block) (r : Response) : State :=
  { s with block := b, responses := s.responses ++ [r] }

/-- Perform a command as one indivisible step (R45) on the ports it presents. Every command completes (R150, R161). -/
def State.perform (s : State) (e : Effect) : Host.Outcome State Fault Refusal :=
  .next (s.answer (e s.block s.ports).1 (e s.block s.ports).2)

/-- The effect of an illegal command word: ILLEGAL_COMMAND, every other field 0, no state changed (R64, R157). -/
def illegalEffect : Effect := fun b _ => (b, { status := .illegalCommand })

/-- The block takes the oldest command the host has presented: its ports become the ports of the command being performed. -/
def State.take (s : State) (c : Command) (rest : List HostEvent) : State :=
  { s with ports := c.ports, inbox := rest }

/-- Reset, applied by the host between commands: every state element gets its reset value, and no response is produced (R170).
What the host has presented after it stays presented, and responses already returned stay returned (log 5). -/
def State.applyReset (s : State) (rest : List HostEvent) : State :=
  { s with block := Block.reset, inbox := rest }

/-- The command the host would present next, put in front of all it has presented: a word, with the ports as they stand. -/
def State.present (s : State) (w : Word) : State :=
  { s with inbox := .command { word := w, ports := s.ports } :: s.inbox }

end Sys2Proof.Machine
end

