-- ==== Sys2Proof/Machine/Control.lean ====
section
/-! DEFINITION. CFG_WRITE, CFG_READ, START, STOP (43_control.md). -/

namespace Sys2Proof.Machine

/-- R130: one staged field, nothing else; no check of the value. A read-only register is R137's ILLEGAL_COMMAND; no word decodes
to that term (log 6). -/
def cfgWriteEffect (reg : Register) : Effect := fun b p =>
  if reg.writable then ({ b with cfg := writeRegister reg p.wdata b.cfg }, { status := .ok })
  else illegalEffect b p

/-- CFG_WRITE (R130, R131, R137). -/
def execCfgWrite (reg : Register) (s : State) : Host.Outcome State Fault Refusal := s.perform (cfgWriteEffect reg)

/-- R132: answer the register; write nothing. -/
def cfgReadEffect (reg : Register) : Effect := fun b _ =>
  (b, { status := .ok, rdata := readRegister reg b })

/-- CFG_READ (R132). -/
def execCfgRead (reg : Register) (s : State) : Host.Outcome State Fault Refusal := s.perform (cfgReadEffect reg)

/-- R133: judge the staged definition; record both conditions and restart the positions; then open a run on a copy of the staged
definition, or close any run and set FATAL, leaving the active definition as it was. -/
def startEffect : Effect := fun b _ =>
  let cr := cerrRange b.cfg.byteOffset b.cfg.bitWidth
  let cw := cerrWidth b.cfg.bitWidth
  let judged := { b with cerrRange := cr, cerrWidth := cw, index := 0 }
  if cr || cw then ({ judged with fatal := true, run := false }, { status := .outOfRange })
  else ({ judged with act := b.cfg, fatal := false, run := true }, { status := .ok })

/-- START (R133). -/
def execStart (s : State) : Host.Outcome State Fault Refusal := s.perform startEffect

/-- R135: close the run; FATAL, the CERR bits, index and act stay. -/
def stopEffect : Effect := fun b _ => ({ b with run := false }, { status := .ok })

/-- STOP (R135). -/
def execStop (s : State) : Host.Outcome State Fault Refusal := s.perform stopEffect

end Sys2Proof.Machine
end

