-- ==== Sys2Proof/Machine/Signal.lean ====
section
/-! DEFINITION. The signal extractor, the linear converter and EXTRACT (41_signal.md). -/

namespace Sys2Proof.Machine

/-- `convert` (R94): raw × scale + offset, exact over the integers, as a 64-bit two's-complement pattern. -/
def convert (raw : Byte) (scale offset : BitVec 32) : Word64 :=
  BitVec.ofInt 64 ((raw.toNat : Int) * scale.toInt + offset.toInt)

/-- `extract_signal` (R96): the raw field and the physical value, or none (OutOfRange). Reads no state; the payload length is the
caller's check. -/
def extractSignal (fdata : Word64) (d : SignalDefinition) : Option (Byte × Word64) :=
  if !d.valid then none
  else
    let r := extractRaw fdata d.byteOffset.toNat d.bitWidth.toNat
    some (r, convert r d.scale d.offset)

/-- R97: the staged definition is judged first, then the payload length. -/
def extractEffect : Effect := fun b p =>
  match extractSignal p.fdata b.cfg with
  | none => (b, { status := .outOfRange })
  | some (r, ph) =>
    if !lengthOk p.flen then (b, { status := .malformedPayload })
    else (b, { status := .ok, raw := r, phys := ph })

/-- EXTRACT (R97). -/
def execExtract (s : State) : Host.Outcome State Fault Refusal := s.perform extractEffect

end Sys2Proof.Machine
end

