-- ==== Sys2Proof/Machine/Frame.lean ====
section
/-! DEFINITION. FRAME (42_frame.md). -/

namespace Sys2Proof.Machine

/-- The raw field and physical value of a matching frame: R96 on the active definition. FRAME runs only with a valid active
definition (R27, R119); for an invalid one, which no run reaches, the raw field is a FREE VALUE and the physical value is R94's
of it (log 3, DESIGN CHOICE, safe). -/
def activeSignal (fdata : Word64) (d : SignalDefinition) : Byte × Word64 :=
  match extractSignal fdata d with
  | some rp => rp
  | none =>
    let r := Config.freeRaw d.byteOffset d.bitWidth fdata
    (r, convert r d.scale d.offset)

/-- The response to a frame of an open run (R111, in the order of R158): at position `i`, against the active definition. -/
def frameResponse (act : SignalDefinition) (i : BitVec 32) (p : Ports) : Response :=
  if !idValid p.fid then { status := .invalidIdentifier, tag := p.ftag, index := i }
  else
    let j := decodeIdentifier p.fid
    if !lengthOk p.flen then
      { status := .malformedPayload, tag := p.ftag, index := i, prio := j.prio, pgn := j.pgn, sa := j.sa }
    else if j.pgn ≠ act.pgn then
      { status := .noMatch, tag := p.ftag, index := i, prio := j.prio, pgn := j.pgn, sa := j.sa }
    else
      let rp := activeSignal p.fdata act
      { status := .ok, tag := p.ftag, index := i, prio := j.prio, pgn := j.pgn, sa := j.sa, raw := rp.1, phys := rp.2 }

/-- R111: with no run open, NOT_RUNNING and no state changed (R113); else the frame takes position `index`, which then advances
modulo 2^32 whatever the outcome (R112). -/
def frameEffect : Effect := fun b p =>
  if !b.run then (b, { status := .notRunning, tag := p.ftag })
  else ({ b with index := b.index + 1 }, frameResponse b.act b.index p)

/-- FRAME (R111). -/
def execFrame (s : State) : Host.Outcome State Fault Refusal := s.perform frameEffect

end Sys2Proof.Machine
end

