-- ==== Sys2Proof/Machine/Identifier.lean ====
section
/-! DEFINITION. ID_DECODE (40_identifier.md). -/

namespace Sys2Proof.Machine

/-- R82: the decoded fields of a valid identifier, or INVALID_IDENTIFIER with no field; no state is read or written. -/
def idDecodeEffect : Effect := fun b p =>
  if !idValid p.fid then (b, { status := .invalidIdentifier })
  else
    let j := decodeIdentifier p.fid
    (b, { status := .ok, prio := j.prio, pgn := j.pgn, sa := j.sa })

/-- ID_DECODE (R82). -/
def execIdDecode (s : State) : Host.Outcome State Fault Refusal := s.perform idDecodeEffect

end Sys2Proof.Machine
end

