-- ==== Sys2Proof/Machine/Dispatch.lean ====
section
/-! DEFINITION. One arm per command of opcode_table.json, each one call of its meaning. -/

namespace Sys2Proof.Machine

/-- Run one operation on the machine, with the operand ports as they stand (R62). -/
def exec (i : Instr) (s : State) : Host.Outcome State Fault Refusal :=
  match i with
  | .cfgWrite reg => Sys2Proof.Machine.execCfgWrite reg s
  | .cfgRead reg => Sys2Proof.Machine.execCfgRead reg s
  | .start => Sys2Proof.Machine.execStart s
  | .stop => Sys2Proof.Machine.execStop s
  | .frame => Sys2Proof.Machine.execFrame s
  | .idDecode => Sys2Proof.Machine.execIdDecode s
  | .extract => Sys2Proof.Machine.execExtract s

end Sys2Proof.Machine
end

