-- ==== Sys2Proof/Machine/Step.lean ====
section
/-! DEFINITION. One step: the block takes the oldest thing the host has presented. -/

namespace Sys2Proof.Machine

/-- One step (R5, R6). Nothing presented: the block does nothing on its own, and the state stays (R51; log 2). A reset: R170.
A command: the word is judged before any operand (R158); a legal one runs, an illegal one answers ILLEGAL_COMMAND (R64). -/
def step (s : State) : Host.Outcome State Fault Refusal :=
  match s.inbox with
  | [] => .next s
  | .reset :: rest => .next (s.applyReset rest)
  | .command c :: rest =>
    match decode c.word with
    | .ok i => exec i (s.take c rest)
    | .error _ => (s.take c rest).perform illegalEffect

/-- The state in which the host has put the given word in front of everything it has presented, so that the next step runs it. The
block has no fetch and no program counter (R21): the host presents each command. The ports are those that stand in `s`. -/
def State.withFetchWord (s : State) (nbits w : Nat) : State := s.present (wordOfBits nbits w)

end Sys2Proof.Machine
end

