-- ==== Sys2Proof/Machine/Platform.lean ====
section
/-! DEFINITION. The host's side of the interface, as functions (R51): what it presents for an identifier, a payload and a length
(R40, R41, R176), the records and errors it builds from FRAME responses (R118), and the assembler's commands and literals (R69,
R70). No step of the block calls any of them. -/

namespace Sys2Proof.Machine

/-- The identifier port for an identifier text: `none` is text that does not parse. Such text, and a value of 2^32 or more, is
presented as 0xFFFFFFFF (R51, R81, R176). -/
def fidOfIdentifier (id : Option Nat) : BitVec 32 :=
  match id with
  | some n => if n < 2 ^ 32 then BitVec.ofNat 32 n else 0xFFFFFFFF
  | none => 0xFFFFFFFF

/-- The length port for a payload of `n` bits: saturated at 255 (R51, R61, R115). -/
def flenOfLength (n : Nat) : Byte := BitVec.ofNat 8 (min n 255)

/-- The payload port for payload bytes, the first received first and most significant (R40): eight bytes fill the port. -/
def fdataOfBytes (bytes : List Byte) : Word64 :=
  bytes.foldl (fun acc byte => acc <<< 8 ||| byte.setWidth 64) 0

/-- The payload port for the payload's string form, the leftmost character first (R40): 64 characters fill the port. -/
def fdataOfChars (chars : List Bool) : Word64 :=
  chars.foldl (fun acc char => acc <<< 1 ||| (BitVec.ofBool char).setWidth 64) 0

/-- The real number a 32-bit scale or offset denotes (R26, R93). -/
def realOfFixed (v : BitVec 32) : Rat := (v.toInt : Rat) / 2 ^ Config.frac

/-- The real number a physical value denotes (R94, R118). -/
def realOfPhys (v : Word64) : Rat := (v.toInt : Rat) / 2 ^ Config.frac

/-- A DecodedRecord (R11, R118). The timestamp is the opaque tag; its meaning is the host's (R120). -/
structure DecodedRecord where
  timestamp : Word64
  pgn : BitVec 16
  physicalValue : Rat
  sourceAddress : Byte
  deriving DecidableEq, Repr

/-- A FrameError: the error, "tagged with the offending frame's position" (R118). -/
structure FrameError where
  error : Status
  position : BitVec 32
  deriving DecidableEq, Repr

/-- The record the host builds from the response to a FRAME: one exactly when the status is OK (R118). -/
def frameRecord (r : Response) : Option DecodedRecord :=
  match r.status with
  | .ok => some { timestamp := r.tag, pgn := r.pgn, physicalValue := realOfPhys r.phys, sourceAddress := r.sa }
  | _ => none

/-- The error the host collects from the response to a FRAME: one exactly when the status is INVALID_IDENTIFIER or
MALFORMED_PAYLOAD (R118); NO_MATCH is no error (R155). -/
def frameError (r : Response) : Option FrameError :=
  match r.status with
  | .invalidIdentifier => some { error := .invalidIdentifier, position := r.index }
  | .malformedPayload => some { error := .malformedPayload, position := r.index }
  | _ => none

/-- The records of a run, in the order of the responses, from the commands with what they answered (R46, R118). -/
def collectRecords (answered : List (Instr × Response)) : List DecodedRecord :=
  answered.filterMap fun (i, r) => if i = .frame then frameRecord r else none

/-- The frame errors of a run, in the order of the responses (R46, R118). -/
def collectErrors (answered : List (Instr × Response)) : List FrameError :=
  answered.filterMap fun (i, r) => if i = .frame then frameError r else none

/-- A real literal of a CFG_WRITE to CFG_SCALE or CFG_OFFSET: v × 2^16 as a 32-bit pattern. Refused unless that is an integer in
−2^31 to 2^31 − 1; never rounded (R69). -/
def fixedLiteral (v : Rat) : Option (BitVec 32) :=
  let x := v * 2 ^ Config.frac
  if x.den = 1 ∧ -2 ^ 31 ≤ x.num ∧ x.num ≤ 2 ^ 31 - 1 then some (BitVec.ofInt 32 x.num) else none

/-- An assembly line `CFG_WRITE reg, wdata`; a port that is not written is irrelevant (R69). -/
def asmCfgWrite (reg : Register) (wdata : Word64) : HostEvent :=
  .command { word := encode (.cfgWrite reg), ports := { Ports.zero with wdata := wdata } }

/-- The assembly line `START` (R69). -/
def asmStart : HostEvent := .command { word := encode .start, ports := Ports.zero }

/-- The assembly line `CFG_READ reg` (R69). -/
def asmCfgRead (reg : Register) : HostEvent := .command { word := encode (.cfgRead reg), ports := Ports.zero }

/-- The assembly line `STOP` (R69). -/
def asmStop : HostEvent := .command { word := encode .stop, ports := Ports.zero }

/-- The assembly line `FRAME fid=…, fdata=…, flen=…, ftag=…` (R69). -/
def asmFrame (fid : BitVec 32) (fdata : Word64) (flen : Byte) (ftag : Word64) : HostEvent :=
  .command { word := encode .frame, ports := { fid := fid, fdata := fdata, flen := flen, ftag := ftag, wdata := 0 } }

/-- The assembly line `ID_DECODE fid=…` (R69). -/
def asmIdDecode (fid : BitVec 32) : HostEvent :=
  .command { word := encode .idDecode, ports := { Ports.zero with fid := fid } }

/-- The assembly line `EXTRACT fdata=…, flen=…` (R69). -/
def asmExtract (fdata : Word64) (flen : Byte) : HostEvent :=
  .command { word := encode .extract, ports := { Ports.zero with fdata := fdata, flen := flen } }

/-- `CONFIGURE pgn, byte_offset, bit_width, scale, offset, unit` (R70). -/
def asmConfigure (d : SignalDefinition) : List HostEvent :=
  [asmCfgWrite .cfgPgn (d.pgn.setWidth 64), asmCfgWrite .cfgByteOffset (d.byteOffset.setWidth 64),
   asmCfgWrite .cfgBitWidth (d.bitWidth.setWidth 64), asmCfgWrite .cfgScale (d.scale.setWidth 64),
   asmCfgWrite .cfgOffset (d.offset.setWidth 64), asmCfgWrite .cfgUnit d.unit]

/-- `OPEN pgn, byte_offset, bit_width, scale, offset, unit`: CONFIGURE, then START (R70). -/
def asmOpen (d : SignalDefinition) : List HostEvent := asmConfigure d ++ [asmStart]

end Sys2Proof.Machine
end

