-- ==== Sys2Proof/Safety.lean ====
section
/-! DEFINITION. The words the statements are written in: completion with a block and a response, validity and illegality in plain
arithmetic (R64, R90), the invariant of the block (R27, R31, R32), and runs of several steps. -/

namespace Sys2Proof.Machine

/-- Running `i` at `s` completes: the block becomes `b`, one response `r` is added after all earlier ones, and the ports and what
the host has presented stay as they were. -/
def Answers (i : Instr) (s : State) (b : Block) (r : Response) : Prop :=
  exec i s = .next { s with block := b, responses := s.responses ++ [r] }

/-- The position after a frame: (i + 1) mod 2^32 (R30, R112). -/
def nextIndex (i : BitVec 32) : BitVec 32 := BitVec.ofNat 32 ((i.toNat + 1) % 2 ^ 32)

/-- "The valid definitions are exactly k in 0 to 7 with w in 1 to 8" (R90). -/
def DefValid (d : SignalDefinition) : Prop :=
  d.byteOffset.toNat ≤ 7 ∧ 1 ≤ d.bitWidth.toNat ∧ d.bitWidth.toNat ≤ 8

/-- A command word is illegal: the cases (a) to (e) of R64, on the number that the word is. -/
def IllegalWord (w : Word) : Prop :=
  let opc := w.toNat / 2 ^ 24
  let reg := w.toNat / 2 ^ 16 % 256
  let mbz := w.toNat % 2 ^ 16
  (opc = 0 ∨ 8 ≤ opc) ∨ mbz ≠ 0 ∨ (3 ≤ opc ∧ opc ≤ 7 ∧ reg ≠ 0) ∨ (opc = 1 ∧ 5 < reg) ∨
    (opc = 2 ∧ 5 < reg ∧ reg ≠ 0x10 ∧ reg ≠ 0x11)

/-- The raw field and the physical value of a payload under a definition, as numbers: the w most significant bits of byte k (R91),
and raw × scale + offset exactly (R94). -/
def SignalOf (fdata : Word64) (d : SignalDefinition) (raw : Byte) (phys : Word64) : Prop :=
  raw.toNat = fdata.toNat / 2 ^ (64 - 8 * d.byteOffset.toNat - d.bitWidth.toNat) % 2 ^ d.bitWidth.toNat ∧
    phys.toInt = (raw.toNat : Int) * d.scale.toInt + d.offset.toInt

/-- The invariant of the block: an open run has a valid active definition (R27), RUN and FATAL are never both 1 (R31), and FATAL is
CERR_RANGE or CERR_WIDTH (R32). -/
def Block.Inv (b : Block) : Prop :=
  (b.run = true → DefValid b.act) ∧ ¬(b.run = true ∧ b.fatal = true) ∧ b.fatal = (b.cerrRange || b.cerrWidth)

/-- A host event that is a command (and so gets a response). -/
def HostEvent.isCommand : HostEvent → Bool
  | .command _ => true
  | .reset => false

/-- `n` steps of the machine, stopping where a step does not answer a next state (none does: R150). -/
def runSteps : Nat → State → Host.Outcome State Fault Refusal
  | 0, s => .next s
  | n + 1, s =>
    match step s with
    | .next t => runSteps n t
    | .fault r => .fault r
    | .refused r => .refused r

end Sys2Proof.Machine
end

