-- ==== Sys2Proof/Certificates/Slice0/Obligations.lean ====
section
/-! DEFINITION. The statements for the provers, from the numbered rules of spec/. Each docstring names the rule it formalises. -/

open Sys2Proof Sys2Proof.Machine

/-! ### Encoding (30_encoding.md) -/

/-- Words written out from the tables of R62 and R63 (95_test_vectors.md §2.8) decode to what they stand for. -/
def Obligations.WrittenOutWordsDecode : Prop :=
  decode 0x01000000 = .ok (.cfgWrite .cfgPgn) ∧ decode 0x01050000 = .ok (.cfgWrite .cfgUnit) ∧
  decode 0x02010000 = .ok (.cfgRead .cfgByteOffset) ∧ decode 0x02100000 = .ok (.cfgRead .status) ∧
  decode 0x02110000 = .ok (.cfgRead .frameCount) ∧ decode 0x03000000 = .ok .start ∧ decode 0x04000000 = .ok .stop ∧
  decode 0x05000000 = .ok .frame ∧ decode 0x06000000 = .ok .idDecode ∧ decode 0x07000000 = .ok .extract

/-- Decode and encode agree in both directions: a word decodes to an operation exactly when the operation is well-formed and the
word is its encoding. No bit of a word is dropped. -/
def Obligations.DecodeAndEncodeAgree : Prop :=
  ∀ (w : Word) (i : Instr), decode w = .ok i ↔ (i.wellFormed = true ∧ encode i = w)

/-- R65: the decoding procedure on every word, on the word's three fields as numbers; and the words that decode are exactly the
6 + 8 + 5 = 19 listed. -/
def Obligations.DecodingProcedureOfEveryWord : Prop :=
  (∀ w : Word,
    let opc := w.toNat / 2 ^ 24
    let reg := w.toNat / 2 ^ 16 % 256
    let mbz := w.toNat % 2 ^ 16
    (∀ r, decode w = .ok (.cfgWrite r) ↔ (mbz = 0 ∧ opc = 0x01 ∧ reg ≤ 0x05 ∧ r.number.toNat = reg)) ∧
    (∀ r, decode w = .ok (.cfgRead r) ↔
      (mbz = 0 ∧ opc = 0x02 ∧ (reg ≤ 0x05 ∨ reg = 0x10 ∨ reg = 0x11) ∧ r.number.toNat = reg)) ∧
    (decode w = .ok .start ↔ (mbz = 0 ∧ opc = 0x03 ∧ reg = 0)) ∧
    (decode w = .ok .stop ↔ (mbz = 0 ∧ opc = 0x04 ∧ reg = 0)) ∧
    (decode w = .ok .frame ↔ (mbz = 0 ∧ opc = 0x05 ∧ reg = 0)) ∧
    (decode w = .ok .idDecode ↔ (mbz = 0 ∧ opc = 0x06 ∧ reg = 0)) ∧
    (decode w = .ok .extract ↔ (mbz = 0 ∧ opc = 0x07 ∧ reg = 0))) ∧
  ∃ words : List Word,
    words = [0x01000000, 0x01010000, 0x01020000, 0x01030000, 0x01040000, 0x01050000,
             0x02000000, 0x02010000, 0x02020000, 0x02030000, 0x02040000, 0x02050000, 0x02100000, 0x02110000,
             0x03000000, 0x04000000, 0x05000000, 0x06000000, 0x07000000] ∧
    words.length = 19 ∧ words.Nodup ∧ ∀ w : Word, (∃ i, decode w = .ok i) ↔ w ∈ words

/-- R64, R157: the words that do not decode are exactly those of (a) to (e), and a command with such a word answers
ILLEGAL_COMMAND with every other field 0 and changes nothing of the block. -/
def Obligations.IllegalWordsAnswerIllegalCommand : Prop :=
  (∀ w : Word, IllegalWord w ↔ ∀ i, decode w ≠ .ok i) ∧
  ∀ (s : State) (c : Command) (rest : List HostEvent),
    s.inbox = .command c :: rest → IllegalWord c.word →
      step s = .next { block := s.block, ports := c.ports, inbox := rest,
                       responses := s.responses ++ [{ status := .illegalCommand, prio := 0, pgn := 0, sa := 0, raw := 0,
                                                      phys := 0, tag := 0, index := 0, rdata := 0 }] }

/-! ### Steps, order, reset (R6, R35, R46, R51, R170) -/

/-- When the oldest thing presented is a command whose word decodes, the step is exec of that operation, with the command's ports as
the operand ports and the command taken from the inbox (R6, R45, R51); and a word that decodes, put where the step takes its next
command, runs. That withFetchWord puts it in front of the inbox with the ports as they stand is the model's choice (log 15). -/
def Obligations.StepRunsTheDecodedCommand : Prop :=
  (∀ (s : State) (c : Command) (rest : List HostEvent) (i : Instr),
    s.inbox = .command c :: rest → decode c.word = .ok i →
      step s = exec i { s with ports := c.ports, inbox := rest }) ∧
  ∀ (s : State) (w : Word) (i : Instr), decode w = .ok i → step (s.withFetchWord 32 w.toNat) = exec i s

/-- R35: the value of every state element after reset, both in the state the machine starts in and after a step that takes a reset
event, which produces no response; no run is open and the staged configuration is invalid. That presented commands and earlier
responses stay is the model's choice (log 5). -/
def Obligations.ResetGivesEveryElementItsValue : Prop :=
  let zero : SignalDefinition := { pgn := 0, byteOffset := 0, bitWidth := 0, scale := 0, offset := 0, unit := 0 }
  let block : Block := { cfg := zero, act := zero, run := false, fatal := false, cerrRange := false, cerrWidth := false, index := 0 }
  State.reset.block = block ∧ ¬ DefValid block.cfg ∧
  ∀ (s : State) (rest : List HostEvent), s.inbox = .reset :: rest → step s = .next { s with block := block, inbox := rest }

/-- R171, on a block at its reset values, whatever the ports: EXTRACT answers OUT_OF_RANGE, FRAME answers NOT_RUNNING and START
fails, with CERR_WIDTH only; STATUS and FRAME_COUNT read 0. -/
def Obligations.CommandsRightAfterReset : Prop :=
  ∀ s : State, s.block = State.reset.block →
    Answers .extract s s.block { status := .outOfRange } ∧
    Answers .frame s s.block { status := .notRunning, tag := s.ports.ftag } ∧
    Answers .start s { s.block with fatal := true, cerrWidth := true } { status := .outOfRange } ∧
    Answers (.cfgRead .status) s s.block { status := .ok, rdata := 0 } ∧
    Answers (.cfgRead .frameCount) s s.block { status := .ok, rdata := 0 }

/-- "The block does nothing on its own" (R51): a step with nothing presented leaves the state as it is. That such a step exists
is the model's choice (log 2). -/
def Obligations.NothingPresentedNothingHappens : Prop :=
  ∀ s : State, s.inbox = [] → step s = .next s

/-- No error stops the block (R150) and every command is allowed at all times (R161): each operation completes in every state, with
one response, and every step answers a next state. That there is a step, and so a next state, with nothing presented is the model's
choice (log 2). -/
def Obligations.EveryCommandCompletes : Prop :=
  (∀ (i : Instr) (s : State), ∃ b r, Answers i s b r) ∧ ∀ s : State, ∃ t, step s = .next t

/-- From R46: the events presented are performed in order, one response per command, all appended in order after the earlier ones; what is
presented later changes neither block, ports nor responses of those before it; and later steps go on from the state they left. R46 speaks of commands; that
among resets, too, the events still presented and the responses already returned stay is the model's reading (log 5). -/
def Obligations.CommandsArePerformedInOrder : Prop :=
  ∀ (s : State) (evs later : List HostEvent), s.inbox = evs ++ later →
    ∃ (b : Block) (p : Ports) (rs : List Response),
      rs.length = (evs.filter HostEvent.isCommand).length ∧
      runSteps evs.length s = .next { block := b, ports := p, inbox := later, responses := s.responses ++ rs } ∧
      runSteps evs.length { s with inbox := evs } = .next { block := b, ports := p, inbox := [], responses := s.responses ++ rs } ∧
      ∀ n, runSteps (evs.length + n) s
        = runSteps n { block := b, ports := p, inbox := later, responses := s.responses ++ rs }

/-! ### Whole-machine rules and invariants -/

/-- The block after reset meets the invariant. -/
def Obligations.ResetMeetsTheInvariant : Prop := State.reset.block.Inv

/-- Every step keeps the invariant: an open run has a valid active definition (R27), RUN and FATAL are never both 1 (R31), FATAL is
CERR_RANGE or CERR_WIDTH (R32). -/
def Obligations.StepKeepsTheInvariant : Prop :=
  ∀ s t : State, s.block.Inv → step s = .next t → t.block.Inv

/-- Who writes what, over all operations (R22, R27, R30, R31, R32, R45): only CFG_WRITE the staged definition; only START the active
one, and only if the staged one is valid, FATAL and the CERR bits; only START and STOP RUN; only START, and FRAME with a run open,
the index. Ports and inbox are never written by an operation. -/
def Obligations.EachElementHasItsWriters : Prop :=
  ∀ (i : Instr) (s t : State), exec i s = .next t →
    t.ports = s.ports ∧ t.inbox = s.inbox ∧
    ((∀ r, i ≠ .cfgWrite r) → t.block.cfg = s.block.cfg) ∧
    (i ≠ .start ∨ ¬ DefValid s.block.cfg → t.block.act = s.block.act) ∧
    (i ≠ .start → t.block.fatal = s.block.fatal ∧ t.block.cerrRange = s.block.cerrRange ∧
      t.block.cerrWidth = s.block.cerrWidth) ∧
    (i ≠ .start → i ≠ .stop → t.block.run = s.block.run) ∧
    (i ≠ .start → (i ≠ .frame ∨ s.block.run = false) → t.block.index = s.block.index)

/-- Under the invariant STATUS reads one of five values (R29, R31, R32): idle, running, or failed for range, width or both. -/
def Obligations.StatusReadsOneOfFiveValues : Prop :=
  ∀ s : State, s.block.Inv →
    ∃ v : Word64, Answers (.cfgRead .status) s s.block { status := .ok, rdata := v } ∧
      v ∈ [(0x0 : Word64), 0x1, 0x6, 0xA, 0xE]

/-- R27, U12: only FRAME of an open run reads the active definition: any other operation, or a FRAME with no run open, gives the same
response whatever it is, and the same block but for that definition where the operation keeps it. -/
def Obligations.OnlyFramesOfARunReadTheActiveDefinition : Prop :=
  ∀ (i : Instr) (s : State) (a : SignalDefinition), i ≠ .frame ∨ s.block.run = false →
    ∃ b r, Answers i s b r ∧
      (Answers i { s with block := { s.block with act := a } } { b with act := a } r ∨
        Answers i { s with block := { s.block with act := a } } b r)

/-- R28: no computation reads the unit label: with other labels every operation but a CFG_READ of CFG_UNIT gives the same response,
and a block that differs at most in the labels. -/
def Obligations.NoComputationReadsTheUnit : Prop :=
  ∀ (i : Instr) (s : State) (u v : Word64), i ≠ .cfgRead .cfgUnit →
    ∃ b b' r, Answers i s b r ∧
      Answers i { s with block := { s.block with cfg := { s.block.cfg with unit := u }, act := { s.block.act with unit := v } } } b' r ∧
      { b' with cfg := { b'.cfg with unit := 0 }, act := { b'.act with unit := 0 } } =
        { b with cfg := { b.cfg with unit := 0 }, act := { b.act with unit := 0 } }

/-- R66, R67, R68: the numeric codes of the statuses; the statuses each command answers with; and that every response field not
listed for the command and status is 0 (an illegal word's response is in IllegalWordsAnswerIllegalCommand). -/
def Obligations.ResponsesFollowTheFieldTable : Prop :=
  [Status.ok, .noMatch, .invalidIdentifier, .malformedPayload, .outOfRange, .notRunning, .illegalCommand].map
    (fun c => c.code.toNat) = [0, 1, 2, 3, 4, 5, 6] ∧
  ∀ (i : Instr) (s t : State) (r : Response), i.wellFormed = true → exec i s = .next t → t.responses = s.responses ++ [r] →
    (∀ reg, i = .cfgWrite reg → r = { status := .ok }) ∧
    (∀ reg, i = .cfgRead reg → r = { status := .ok, rdata := r.rdata }) ∧
    (i = .start → r = { status := .ok } ∨ r = { status := .outOfRange }) ∧
    (i = .stop → r = { status := .ok }) ∧
    (i = .frame →
      r = { status := .notRunning, tag := r.tag } ∨
      r = { status := .invalidIdentifier, tag := r.tag, index := r.index } ∨
      r = { status := .malformedPayload, tag := r.tag, index := r.index, prio := r.prio, pgn := r.pgn, sa := r.sa } ∨
      r = { status := .noMatch, tag := r.tag, index := r.index, prio := r.prio, pgn := r.pgn, sa := r.sa } ∨
      r = { status := .ok, tag := r.tag, index := r.index, prio := r.prio, pgn := r.pgn, sa := r.sa, raw := r.raw,
            phys := r.phys }) ∧
    (i = .idDecode → r = { status := .ok, prio := r.prio, pgn := r.pgn, sa := r.sa } ∨ r = { status := .invalidIdentifier }) ∧
    (i = .extract →
      r = { status := .ok, raw := r.raw, phys := r.phys } ∨ r = { status := .outOfRange } ∨ r = { status := .malformedPayload })

/-- R61: "A command reads only the ports listed for it": two port settings that agree on the listed ports give the same block and the
same response. -/
def Obligations.UnlistedPortsAreIgnored : Prop :=
  ∀ (i : Instr) (s : State) (p : Ports),
    (i = .frame ∨ i = .idDecode → p.fid = s.ports.fid) →
    (i = .frame ∨ i = .extract → p.fdata = s.ports.fdata ∧ p.flen = s.ports.flen) →
    (i = .frame → p.ftag = s.ports.ftag) →
    ((∃ r, i = .cfgWrite r) → p.wdata = s.ports.wdata) →
    ∃ b r, Answers i s b r ∧ Answers i { s with ports := p } b r

/-- R45: CFG_READ, ID_DECODE and EXTRACT change nothing, and repeating one gives the same response. -/
def Obligations.ReadingCommandsAreRepeatable : Prop :=
  ∀ (i : Instr) (s : State), (∃ reg, i = .cfgRead reg) ∨ i = .idDecode ∨ i = .extract →
    ∃ (r : Response) (t : State), Answers i s s.block r ∧ exec i s = .next t ∧ t.block = s.block ∧ Answers i t t.block r

/-! ### CFG_WRITE, CFG_READ, START, STOP (43_control.md) -/

/-- R130, R131: CFG_WRITE stores the register's field bits of wdata, as written, in the one staged field, and answers OK; nothing
else changes. The word 0x01RR0000 decodes to it for RR in 0x00 to 0x05 and to nothing for any other RR. -/
def Obligations.CfgWriteStoresTheFieldBits : Prop :=
  (∀ s : State,
    let v := s.ports.wdata.toNat
    Answers (.cfgWrite .cfgPgn) s
      { s.block with cfg := { s.block.cfg with pgn := BitVec.ofNat 16 (v % 2 ^ 16) } } { status := .ok } ∧
    Answers (.cfgWrite .cfgByteOffset) s
      { s.block with cfg := { s.block.cfg with byteOffset := BitVec.ofNat 8 (v % 2 ^ 8) } } { status := .ok } ∧
    Answers (.cfgWrite .cfgBitWidth) s
      { s.block with cfg := { s.block.cfg with bitWidth := BitVec.ofNat 8 (v % 2 ^ 8) } } { status := .ok } ∧
    Answers (.cfgWrite .cfgScale) s
      { s.block with cfg := { s.block.cfg with scale := BitVec.ofNat 32 (v % 2 ^ 32) } } { status := .ok } ∧
    Answers (.cfgWrite .cfgOffset) s
      { s.block with cfg := { s.block.cfg with offset := BitVec.ofNat 32 (v % 2 ^ 32) } } { status := .ok } ∧
    Answers (.cfgWrite .cfgUnit) s
      { s.block with cfg := { s.block.cfg with unit := BitVec.ofNat 64 v } } { status := .ok }) ∧
  ∀ n, n < 256 →
    (∀ reg, decode (BitVec.ofNat 32 (0x01000000 + n * 0x10000)) = .ok (.cfgWrite reg) ↔ (n ≤ 5 ∧ reg.number.toNat = n)) ∧
    (5 < n → ∀ i, decode (BitVec.ofNat 32 (0x01000000 + n * 0x10000)) ≠ .ok i)

/-- The ill-formed terms: a CFG_WRITE of STATUS or FRAME_COUNT, which no word decodes to, answers ILLEGAL_COMMAND and changes no
state, as R137 says of the words. That the term has this meaning is the model's choice (log 6). -/
def Obligations.WritesToReadOnlyRegistersAreIllegal : Prop :=
  ∀ (s : State) (reg : Register), reg.writable = false →
    Answers (.cfgWrite reg) s s.block { status := .illegalCommand } ∧ ∀ w, decode w ≠ .ok (.cfgWrite reg)

/-- R132: CFG_READ answers OK with the register's value zero-extended, the staged configuration and never the active one, and writes
nothing. The word 0x02RR0000 decodes to it for the mapped RR and to nothing for any other RR. -/
def Obligations.CfgReadReturnsTheRegister : Prop :=
  (∀ (s : State) (reg : Register), ∃ v : Word64,
    Answers (.cfgRead reg) s s.block { status := .ok, rdata := v } ∧
    v.toNat = match reg with
      | .cfgPgn => s.block.cfg.pgn.toNat
      | .cfgByteOffset => s.block.cfg.byteOffset.toNat
      | .cfgBitWidth => s.block.cfg.bitWidth.toNat
      | .cfgScale => s.block.cfg.scale.toNat
      | .cfgOffset => s.block.cfg.offset.toNat
      | .cfgUnit => s.block.cfg.unit.toNat
      | .status => 8 * s.block.cerrWidth.toNat + 4 * s.block.cerrRange.toNat + 2 * s.block.fatal.toNat + s.block.run.toNat
      | .frameCount => s.block.index.toNat) ∧
  ∀ n, n < 256 →
    (∀ reg, decode (BitVec.ofNat 32 (0x02000000 + n * 0x10000)) = .ok (.cfgRead reg) ↔ reg.number.toNat = n) ∧
    (5 < n → n ≠ 0x10 → n ≠ 0x11 → ∀ i, decode (BitVec.ofNat 32 (0x02000000 + n * 0x10000)) ≠ .ok i)

/-- A CFG_WRITE followed at once by a CFG_READ of the same register sees the written value, cut to the register's field (R131, R132,
R177); every other register reads as before. -/
def Obligations.ReadAfterWriteSeesTheFieldBits : Prop :=
  ∀ (s : State) (reg : Register), reg.writable = true →
    ∃ t : State, exec (.cfgWrite reg) s = .next t ∧
      (∃ v : Word64, Answers (.cfgRead reg) t t.block { status := .ok, rdata := v } ∧
        v.toNat = s.ports.wdata.toNat % 2 ^ (match reg with
          | .cfgPgn => 16 | .cfgByteOffset => 8 | .cfgBitWidth => 8 | .cfgScale => 32 | .cfgOffset => 32 | _ => 64)) ∧
      ∀ other, other ≠ reg → ∃ v : Word64,
        Answers (.cfgRead other) t t.block { status := .ok, rdata := v } ∧
        Answers (.cfgRead other) s s.block { status := .ok, rdata := v }

/-- R133: START judges the staged definition by R90's two conditions, records them, restarts the positions, and either opens a run on
all six staged fields with FATAL 0, or closes any run with FATAL 1, leaves the active definition and answers OUT_OF_RANGE. -/
def Obligations.StartOpensOrFailsTheRun : Prop :=
  decode 0x03000000 = .ok .start ∧
  ∀ s : State,
    let k := s.block.cfg.byteOffset.toNat
    let w := s.block.cfg.bitWidth.toNat
    let cr := decide (8 ≤ k ∨ 8 < k + (w + 7) / 8)
    let cw := decide (w = 0 ∨ 8 < w)
    ((cr = true ∨ cw = true) →
      Answers .start s
        { cfg := s.block.cfg, act := s.block.act, run := false, fatal := true, cerrRange := cr, cerrWidth := cw, index := 0 }
        { status := .outOfRange }) ∧
    (cr = false → cw = false →
      Answers .start s
        { cfg := s.block.cfg, act := s.block.cfg, run := true, fatal := false, cerrRange := false, cerrWidth := false, index := 0 }
        { status := .ok })

/-- A START succeeds exactly on the definitions that R90 calls valid, k in 0 to 7 with w in 1 to 8, from any state. -/
def Obligations.StartSucceedsExactlyOnValidDefinitions : Prop :=
  ∀ s : State, ∃ b r, Answers .start s b r ∧ (r.status = .ok ↔ DefValid s.block.cfg) ∧ (b.run = true ↔ DefValid s.block.cfg) ∧
    (b.fatal = true ↔ ¬ DefValid s.block.cfg)

/-- R135: STOP closes the run, writes nothing else and answers OK; with no run open it changes nothing. -/
def Obligations.StopClosesTheRun : Prop :=
  decode 0x04000000 = .ok .stop ∧
  ∀ s : State,
    Answers .stop s { s.block with run := false } { status := .ok } ∧
    (s.block.run = false → Answers .stop s s.block { status := .ok })

/-- R160, R154: while FATAL = 1 (and the invariant holds), FRAME gets NOT_RUNNING and changes nothing; every command but START keeps
FATAL; START keeps or clears it as the staged definition is invalid or valid; reset clears it; and ID_DECODE, EXTRACT, CFG_WRITE
and CFG_READ of any register but STATUS answer as they would with FATAL = 0. -/
def Obligations.FatalIsLeftOnlyByStartOrReset : Prop :=
  ∀ s : State, s.block.Inv → s.block.fatal = true →
    Answers .frame s s.block { status := .notRunning, tag := s.ports.ftag } ∧
    (∀ i, i ≠ .start → ∃ b r, Answers i s b r ∧ b.fatal = true) ∧
    (∃ b r, Answers .start s b r ∧ (b.fatal = true ↔ ¬ DefValid s.block.cfg)) ∧
    (∀ rest, ∃ t, step { s with inbox := .reset :: rest } = .next t ∧ t.block.fatal = false) ∧
    ∀ i, i = .idDecode ∨ i = .extract ∨ (∃ reg, i = .cfgWrite reg) ∨ (∃ reg, reg ≠ .status ∧ i = .cfgRead reg) →
      ∃ b r, Answers i s b r ∧ Answers i { s with block := { s.block with fatal := false } } { b with fatal := false } r

/-! ### ID_DECODE (40_identifier.md) -/

/-- R80, R81, R82: a valid identifier, below 2^29, decodes to the source's three formulas; any other answers INVALID_IDENTIFIER with
no field; no state changes. -/
def Obligations.IdDecodeReportsTheFields : Prop :=
  decode 0x06000000 = .ok .idDecode ∧
  ∀ s : State,
    let raw := s.ports.fid.toNat
    (raw < 2 ^ 29 →
      Answers .idDecode s s.block
        { status := .ok, prio := BitVec.ofNat 3 (raw / 2 ^ 26 % 8), pgn := BitVec.ofNat 16 (raw / 2 ^ 8 % 2 ^ 16),
          sa := BitVec.ofNat 8 (raw % 2 ^ 8) }) ∧
    (2 ^ 29 ≤ raw → Answers .idDecode s s.block { status := .invalidIdentifier })

/-- R83: two identifiers that differ only in bits 25 and 24 give the same block and the same response, for ID_DECODE and FRAME. -/
def Obligations.IdentifierBits25And24AreNotRead : Prop :=
  ∀ (i : Instr) (s : State) (fid : BitVec 32), i = .idDecode ∨ i = .frame →
    fid &&& 0xFCFFFFFF = s.ports.fid &&& 0xFCFFFFFF →
    ∃ b r, Answers i s b r ∧ Answers i { s with ports := { s.ports with fid := fid } } b r

/-! ### EXTRACT and its functions (41_signal.md) -/

/-- R90: the two conditions over the integers, and the valid definitions, k in 0 to 7 with w in 1 to 8; for them the source's testable
form agrees. There are 8 × 8 = 64 such pairs: R90's own derived count, 56, does not agree with its ranges (log 12). -/
def Obligations.DefinitionValidity : Prop :=
  (∀ k w : Byte,
    (cerrRange k w = true ↔ (8 ≤ k.toNat ∨ 8 < k.toNat + (w.toNat + 7) / 8)) ∧
    (cerrWidth w = true ↔ (w.toNat = 0 ∨ 8 < w.toNat)) ∧
    (validDef k w = true ↔ (cerrRange k w = false ∧ cerrWidth w = false)) ∧
    (validDef k w = true ↔ (1 ≤ w.toNat ∧ w.toNat ≤ 8 ∧ k.toNat * 8 + w.toNat ≤ 64))) ∧
  ∃ pairs : List (Nat × Nat),
    pairs.length = 64 ∧ pairs.Nodup ∧
    (∀ k w, (k, w) ∈ pairs ↔ (k ≤ 7 ∧ 1 ≤ w ∧ w ≤ 8)) ∧
    ∀ k w : Byte, validDef k w = true ↔ (k.toNat, w.toNat) ∈ pairs

/-- R91, R92: for a valid definition the raw field is the w most significant bits of payload byte k: as a slice of fdata, as a shift
of the byte, and bit by bit in the payload string's order (R40); it is at most 2^w - 1. -/
def Obligations.RawFieldIsTheLeadingBitsOfTheByte : Prop :=
  ∀ (fdata : Word64) (k w : Nat), k ≤ 7 → 1 ≤ w → w ≤ 8 →
    (extractRaw fdata k w).toNat = fdata.toNat / 2 ^ (64 - 8 * k - w) % 2 ^ w ∧
    (extractRaw fdata k w).toNat = (fdata.toNat / 2 ^ (56 - 8 * k) % 256) / 2 ^ (8 - w) ∧
    (∀ j, j < w → (extractRaw fdata k w).getLsbD (w - 1 - j) = payloadChar fdata (8 * k + j)) ∧
    (extractRaw fdata k w).toNat ≤ 2 ^ w - 1

/-- R93, R94, R95: the physical value is raw × scale + offset exactly, as an integer and as the real numbers read with 16 fractional
bits; it lies in -2^39 to 2^39 - 256, both reached; bits [63:39] all equal the sign. -/
def Obligations.ConversionIsExact : Prop :=
  (∀ (raw : Byte) (scale offset : BitVec 32),
    let phys := convert raw scale offset
    phys.toInt = (raw.toNat : Int) * scale.toInt + offset.toInt ∧
    -2 ^ 39 ≤ phys.toInt ∧ phys.toInt ≤ 2 ^ 39 - 256 ∧
    (∀ j, 39 ≤ j → j < 64 → phys.getLsbD j = phys.msb) ∧
    (phys.toInt : Rat) / 2 ^ 16 = (raw.toNat : Rat) * ((scale.toInt : Rat) / 2 ^ 16) + (offset.toInt : Rat) / 2 ^ 16) ∧
  (convert 255 0x80000000 0x80000000).toInt = -2 ^ 39 ∧ (convert 255 0x7FFFFFFF 0x7FFFFFFF).toInt = 2 ^ 39 - 256

/-- R97: EXTRACT judges the staged definition first, then the payload length, and else answers the raw field and physical value of the
staged definition; no state changes. -/
def Obligations.ExtractUsesTheStagedDefinition : Prop :=
  decode 0x07000000 = .ok .extract ∧
  ∀ s : State,
    (¬ DefValid s.block.cfg → Answers .extract s s.block { status := .outOfRange }) ∧
    (DefValid s.block.cfg → s.ports.flen.toNat ≠ 64 → Answers .extract s s.block { status := .malformedPayload }) ∧
    (DefValid s.block.cfg → s.ports.flen.toNat = 64 → ∃ raw phys,
      SignalOf s.ports.fdata s.block.cfg raw phys ∧
      Answers .extract s s.block { status := .ok, raw := raw, phys := phys })

/-- The round trip of the source's test (95_test_vectors.md W8), for every byte position: a payload assembled from eight bytes, byte k
being v, extracts under bit width 8 and byte offset k to raw v and v × scale + offset exactly. -/
def Obligations.AssembledPayloadExtractsItsByte : Prop :=
  ∀ (s : State) (bytes : List Byte) (k : Nat) (v : Byte), bytes.length = 8 → bytes[k]? = some v →
    s.block.cfg.byteOffset.toNat = k → s.block.cfg.bitWidth = 8 → s.ports.flen = 64 → s.ports.fdata = fdataOfBytes bytes →
    ∃ phys, Answers .extract s s.block { status := .ok, raw := v, phys := phys } ∧
      phys.toInt = (v.toNat : Int) * s.block.cfg.scale.toInt + s.block.cfg.offset.toInt

/-! ### FRAME (42_frame.md) -/

/-- R113: with no run open FRAME answers NOT_RUNNING with the tag and changes no state. -/
def Obligations.FrameWithoutARunIsNotRunning : Prop :=
  ∀ s : State, s.block.run = false → Answers .frame s s.block { status := .notRunning, tag := s.ports.ftag }

/-- R114, R115, R116, in the order of R158: an invalid identifier is reported before a malformed payload, that before a PGN mismatch;
each carries the fields its rule names and the position, and the position advances. -/
def Obligations.FrameErrorsAndMismatches : Prop :=
  ∀ s : State, s.block.run = true →
    let fid := s.ports.fid.toNat
    let after := { s.block with index := nextIndex s.block.index }
    let prio := BitVec.ofNat 3 (fid / 2 ^ 26 % 8)
    let pgn := BitVec.ofNat 16 (fid / 2 ^ 8 % 2 ^ 16)
    let sa := BitVec.ofNat 8 (fid % 2 ^ 8)
    (2 ^ 29 ≤ fid →
      Answers .frame s after { status := .invalidIdentifier, tag := s.ports.ftag, index := s.block.index }) ∧
    (fid < 2 ^ 29 → s.ports.flen.toNat ≠ 64 →
      Answers .frame s after
        { status := .malformedPayload, tag := s.ports.ftag, index := s.block.index, prio := prio, pgn := pgn, sa := sa }) ∧
    (fid < 2 ^ 29 → s.ports.flen.toNat = 64 → fid / 2 ^ 8 % 2 ^ 16 ≠ s.block.act.pgn.toNat →
      Answers .frame s after
        { status := .noMatch, tag := s.ports.ftag, index := s.block.index, prio := prio, pgn := pgn, sa := sa })

/-- R117: a frame of an open run with a valid identifier, 64 payload bits and a matching PGN answers OK with the decoded fields, the
raw field and physical value of the active definition (valid in every run, R27), the tag and the position. -/
def Obligations.MatchingFrameIsDecoded : Prop :=
  ∀ s : State, s.block.run = true → DefValid s.block.act → s.ports.fid.toNat < 2 ^ 29 → s.ports.flen.toNat = 64 →
    s.ports.fid.toNat / 2 ^ 8 % 2 ^ 16 = s.block.act.pgn.toNat →
    ∃ raw phys, SignalOf s.ports.fdata s.block.act raw phys ∧
      Answers .frame s { s.block with index := nextIndex s.block.index }
        { status := .ok, tag := s.ports.ftag, index := s.block.index,
          prio := BitVec.ofNat 3 (s.ports.fid.toNat / 2 ^ 26 % 8), pgn := s.block.act.pgn,
          sa := BitVec.ofNat 8 (s.ports.fid.toNat % 2 ^ 8), raw := raw, phys := phys }

/-- R27, R66, R92, R95, R117 read from the response, for every block that meets the invariant: FRAME completes and keeps the
invariant; an OK response carries the raw field and physical value of the active definition, the raw field at most 2^w - 1 and the
physical value in R95's range, and any other response carries 0 for both. And R177: a FRAME at once after a START of a valid staged
definition, whatever its ports, uses the new definition: if it is OK, it has that definition's PGN and its signal. -/
def Obligations.OkFrameResponsesCarryTheRunsSignal : Prop :=
  (∀ s : State, s.block.Inv →
    ∃ b r, Answers .frame s b r ∧ b.Inv ∧
      (r.status = .ok → s.block.run = true ∧ SignalOf s.ports.fdata s.block.act r.raw r.phys ∧
        r.raw.toNat ≤ 2 ^ s.block.act.bitWidth.toNat - 1 ∧ -2 ^ 39 ≤ r.phys.toInt ∧ r.phys.toInt ≤ 2 ^ 39 - 256) ∧
      (r.status ≠ .ok → r.raw = 0 ∧ r.phys = 0)) ∧
  ∀ (s : State) (p : Ports), DefValid s.block.cfg →
    ∃ t, exec .start s = .next t ∧
      ∃ b r, Answers .frame { t with ports := p } b r ∧
        (r.status = .ok → r.pgn = s.block.cfg.pgn ∧ SignalOf p.fdata s.block.cfg r.raw r.phys)

/-- R112, R175: whatever its outcome, a FRAME of an open run takes the position before it and advances the counter modulo 2^32, which
wraps from 0xFFFFFFFF to 0; the first frame after a START that opened a run has position 0. -/
def Obligations.EveryFrameTakesOnePosition : Prop :=
  (∀ s : State, s.block.run = true →
    ∃ r, Answers .frame s { s.block with index := nextIndex s.block.index } r ∧ r.index = s.block.index) ∧
  nextIndex 0xFFFFFFFF = 0 ∧
  ∀ (s t : State) (p : Ports), exec .start s = .next t → t.block.run = true →
    ∃ b r, Answers .frame { t with ports := p } b r ∧ r.index = 0 ∧ b.index = 1

/-- R119, R120: FRAME never answers OUT_OF_RANGE, and echoes ftag in every response; under the invariant an open run's active
definition never makes extract_signal fail. -/
def Obligations.FrameEchoesTheTagAndIsNeverOutOfRange : Prop :=
  ∀ s : State,
    (∃ b r, Answers .frame s b r ∧ r.tag = s.ports.ftag ∧ r.status ≠ .outOfRange ∧ r.status ≠ .illegalCommand) ∧
    (s.block.Inv → s.block.run = true → extractSignal s.ports.fdata s.block.act ≠ none)

/-- R121: the response to a FRAME depends only on run, index, act and the four frame ports, and the state after it differs from the
state before only in the index (and the added response). -/
def Obligations.FramesAreIndependent : Prop :=
  ∀ s₁ s₂ : State, s₁.block.run = s₂.block.run → s₁.block.index = s₂.block.index → s₁.block.act = s₂.block.act →
    s₁.ports.fid = s₂.ports.fid → s₁.ports.fdata = s₂.ports.fdata → s₁.ports.flen = s₂.ports.flen →
    s₁.ports.ftag = s₂.ports.ftag →
    ∃ r i, Answers .frame s₁ { s₁.block with index := i } r ∧ Answers .frame s₂ { s₂.block with index := i } r

/-- R118: from a FRAME's response the host builds a record exactly when the run is open, the identifier valid, the payload 64 bits and
the PGN the target's, and an error exactly when the run is open and the identifier invalid or else the payload malformed; the
error carries the frame's position, the record the tag, the target PGN and the source address. -/
def Obligations.RecordsAndErrorsFollowTheFrame : Prop :=
  ∀ (s : State) (b : Block) (r : Response), Answers .frame s b r →
    let fid := s.ports.fid.toNat
    ((∃ d, frameRecord r = some d) ↔
      (s.block.run = true ∧ fid < 2 ^ 29 ∧ s.ports.flen.toNat = 64 ∧ fid / 2 ^ 8 % 2 ^ 16 = s.block.act.pgn.toNat)) ∧
    ((∃ e, frameError r = some e) ↔ (s.block.run = true ∧ (2 ^ 29 ≤ fid ∨ s.ports.flen.toNat ≠ 64))) ∧
    (∀ d, frameRecord r = some d → d.timestamp = s.ports.ftag ∧ d.pgn = s.block.act.pgn ∧
      d.sourceAddress.toNat = fid % 2 ^ 8 ∧ d.physicalValue = (r.phys.toInt : Rat) / 2 ^ 16) ∧
    (∀ e, frameError r = some e → e.position = s.block.index ∧ e.error = r.status)

/-! ### Runs and the staged configuration (R134, R172, R173) -/

/-- R173: a CFG_WRITE changes the staged configuration only, so the next FRAME, whatever its ports, answers and advances as it would
have without the write. -/
def Obligations.StagedWritesDoNotReachTheRun : Prop :=
  ∀ (s : State) (reg : Register) (p : Ports), ∃ t : State, exec (.cfgWrite reg) s = .next t ∧
    ∃ b r, Answers .frame { s with ports := p } b r ∧ Answers .frame { t with ports := p } { b with cfg := t.block.cfg } r

/-- From R134: two machines with the same valid staged definition, whatever their earlier runs, positions, flags and active definitions,
give after the same START the same responses to the same further commands and resets, and end in the same block. That the responses
already returned, and what is still presented, stay through a reset is the model's reading (log 5). -/
def Obligations.RunsAreIndependentOfEarlierRuns : Prop :=
  ∀ (s₁ s₂ : State) (c : Command) (evs : List HostEvent), decode c.word = .ok .start →
    s₁.block.cfg = s₂.block.cfg → DefValid s₁.block.cfg →
    ∃ (b : Block) (p : Ports) (rs : List Response),
      runSteps (evs.length + 1) { s₁ with inbox := .command c :: evs }
        = .next { block := b, ports := p, inbox := [], responses := s₁.responses ++ rs } ∧
      runSteps (evs.length + 1) { s₂ with inbox := .command c :: evs }
        = .next { block := b, ports := p, inbox := [], responses := s₂.responses ++ rs }

/-- R70, R172: from any state, OPEN of a valid definition (six CFG_WRITEs, then START) answers OK seven times and leaves a run open on
that definition, staged and active, at position 0, with no error recorded. -/
def Obligations.OpenConfiguresAndOpensARun : Prop :=
  ∀ (s : State) (d : SignalDefinition) (later : List HostEvent), DefValid d → s.inbox = asmOpen d ++ later →
    ∃ p, runSteps 7 s = .next
      { block := { cfg := d, act := d, run := true, fatal := false, cerrRange := false, cerrWidth := false, index := 0 },
        ports := p, inbox := later, responses := s.responses ++ List.replicate 7 { status := .ok } }

/-! ### Host duties (R51, R69, R176) -/

/-- R51, R176: presented as the host's duty says, an identifier is accepted exactly when its text parses to a number below 2^29, and a
payload length passes EXTRACT's check, on a valid staged definition, exactly when it is 64 bits. -/
def Obligations.HostMappingLosesNoError : Prop :=
  ∀ (s : State) (id : Option Nat) (n : Nat),
    (s.ports.fid = fidOfIdentifier id → ∃ r, Answers .idDecode s s.block r ∧
      (r.status = .ok ↔ ∃ v, id = some v ∧ v < 2 ^ 29)) ∧
    (s.ports.flen = flenOfLength n → DefValid s.block.cfg → ∃ r, Answers .extract s s.block r ∧ (r.status = .ok ↔ n = 64))

/-- R69: a literal is accepted exactly when some 32-bit pattern denotes it exactly, and then gives that pattern: no rounding. -/
def Obligations.LiteralsAreNeverRounded : Prop :=
  ∀ (v : Rat) (b : BitVec 32), fixedLiteral v = some b ↔ (b.toInt : Rat) = v * 2 ^ 16
end

