-- ==== Sys2Proof/Laws/Decode.lean ====
section
/-! SUPPORT. The fields of a command word as numbers, and the register numbers. -/

namespace Sys2Proof

theorem opcField_toNat (w : Word) : (opcField w).toNat = w.toNat / 2 ^ 24 := by
  have := w.isLt
  simp only [opcField, BitVec.extractLsb'_toNat, Nat.shiftRight_eq_div_pow]
  omega

theorem regField_toNat (w : Word) : (regField w).toNat = w.toNat / 2 ^ 16 % 256 := by
  simp only [regField, BitVec.extractLsb'_toNat, Nat.shiftRight_eq_div_pow]

theorem mbzField_toNat (w : Word) : (mbzField w).toNat = w.toNat % 2 ^ 16 := by
  simp only [mbzField, BitVec.extractLsb'_toNat, Nat.shiftRight_zero]

/-- An encoding as a number: the three fields of R60. -/
theorem encode_toNat (i : Instr) : (encode i).toNat = i.opcode.toNat * 2 ^ 24 + i.regNumber.toNat * 2 ^ 16 := by
  cases i with
  | cfgWrite r => cases r <;> rfl
  | cfgRead r => cases r <;> rfl
  | _ => rfl

/-- A number names a register exactly when it is the register's own. -/
theorem ofNumber_eq_some (n : Byte) (r : Register) : Register.ofNumber n = some r ↔ r.number = n := by
  constructor
  · intro h
    unfold Register.ofNumber at h
    split at h <;> first | (cases h; apply BitVec.eq_of_toNat_eq; simp_all [Register.number]) | cases h
  · rintro rfl
    cases r <;> rfl

end Sys2Proof
end

