-- ==== Sys2Proof/Laws/Operands.lean ====
section
/-! SUPPORT. The operand, validity and conversion functions as arithmetic on numbers. -/

namespace Sys2Proof.Machine

/-- R81 as a comparison. -/
theorem idValid_iff (raw : BitVec 32) : idValid raw = true ↔ raw.toNat < 2 ^ 29 := by
  have h := raw.isLt
  simp only [idValid, beq_iff_eq, ← BitVec.toNat_inj, BitVec.extractLsb'_toNat, Nat.shiftRight_eq_div_pow, BitVec.ofNat_eq_ofNat,
    BitVec.toNat_ofNat]
  omega

/-- R80's three formulas. -/
theorem decodeIdentifier_eq (raw : BitVec 32) :
    decodeIdentifier raw =
      { prio := BitVec.ofNat 3 (raw.toNat / 2 ^ 26 % 8), pgn := BitVec.ofNat 16 (raw.toNat / 2 ^ 8 % 2 ^ 16),
        sa := BitVec.ofNat 8 (raw.toNat % 2 ^ 8) } := by
  simp only [decodeIdentifier, J1939Identifier.mk.injEq, ← BitVec.toNat_inj, BitVec.extractLsb'_toNat,
    Nat.shiftRight_eq_div_pow, BitVec.toNat_ofNat]
  refine ⟨?_, ?_, ?_⟩ <;> omega

/-- R115's length check. -/
theorem lengthOk_iff (flen : Byte) : lengthOk flen = true ↔ flen.toNat = 64 := by
  simp [lengthOk, Config.payloadBits]

/-- R90's condition (a). -/
theorem cerrRange_iff (k w : Byte) : cerrRange k w = true ↔ (8 ≤ k.toNat ∨ 8 < k.toNat + (w.toNat + 7) / 8) := by
  simp [cerrRange, ceilBytes, Config.maxByteOffset]

/-- R90's condition (b). -/
theorem cerrWidth_iff (w : Byte) : cerrWidth w = true ↔ (w.toNat = 0 ∨ 8 < w.toNat) := by
  simp only [cerrWidth, Config.maxBitWidth, decide_eq_true_eq, gt_iff_lt]

/-- The valid definitions, for the judgement the machine makes. -/
theorem valid_iff (d : SignalDefinition) : d.valid = true ↔ DefValid d := by
  have ha := cerrRange_iff d.byteOffset d.bitWidth
  have hb := cerrWidth_iff d.bitWidth
  unfold SignalDefinition.valid validDef DefValid
  cases h1 : cerrRange d.byteOffset d.bitWidth <;> cases h2 : cerrWidth d.bitWidth <;> simp [h1, h2] at ha hb ⊢ <;> omega

/-- The slice of R91 as a number. -/
theorem extractRaw_toNat (fdata : Word64) (k w : Nat) (hw : w ≤ 8) :
    (extractRaw fdata k w).toNat = fdata.toNat / 2 ^ (64 - 8 * k - w) % 2 ^ w := by
  have h : 2 ^ w ≤ 2 ^ 8 := Nat.pow_le_pow_right (by decide) hw
  have h2 := Nat.mod_lt (fdata.toNat / 2 ^ (64 - 8 * k - w)) (Nat.two_pow_pos w)
  simp only [extractRaw, BitVec.toNat_setWidth, BitVec.extractLsb'_toNat, Nat.shiftRight_eq_div_pow]
  exact Nat.mod_eq_of_lt (by omega)

/-- Bounds of the product in R94. -/
theorem convert_bounds (raw : Byte) (scale offset : BitVec 32) :
    -2 ^ 39 ≤ (raw.toNat : Int) * scale.toInt + offset.toInt ∧
      (raw.toNat : Int) * scale.toInt + offset.toInt ≤ 2 ^ 39 - 256 := by
  have hr := raw.isLt
  have h1 := BitVec.le_toInt scale
  have h2 := BitVec.toInt_lt (x := scale)
  have h3 := BitVec.le_toInt offset
  have h4 := BitVec.toInt_lt (x := offset)
  norm_num at h1 h2 h3 h4 hr ⊢
  have hr' : (raw.toNat : Int) ≤ 255 := by omega
  have hr0 : (0 : Int) ≤ raw.toNat := by omega
  constructor <;> nlinarith

/-- R94 loses nothing in the 64-bit pattern. -/
theorem convert_toInt (raw : Byte) (scale offset : BitVec 32) :
    (convert raw scale offset).toInt = (raw.toNat : Int) * scale.toInt + offset.toInt := by
  have h := convert_bounds raw scale offset
  unfold convert
  rw [BitVec.toInt_ofInt]
  apply Int.bmod_eq_of_le <;> norm_num at h ⊢ <;> omega

/-- The wrap of R112. -/
theorem index_succ (i : BitVec 32) : i + 1 = nextIndex i := by
  apply BitVec.eq_of_toNat_eq
  simp [nextIndex, BitVec.toNat_add]

/-- R96 on a valid definition. -/
theorem extractSignal_valid (fdata : Word64) (d : SignalDefinition) (h : DefValid d) :
    ∃ raw phys, extractSignal fdata d = some (raw, phys) ∧ SignalOf fdata d raw phys := by
  refine ⟨_, _, by simp [extractSignal, (valid_iff d).2 h]; exact ⟨rfl, rfl⟩, ?_, ?_⟩
  · exact extractRaw_toNat _ _ _ h.2.2
  · exact convert_toInt _ _ _

/-- R96 on an invalid definition. -/
theorem extractSignal_invalid (fdata : Word64) (d : SignalDefinition) (h : ¬ DefValid d) : extractSignal fdata d = none := by
  have hv : d.valid = false := by
    cases hd : d.valid with
    | true => exact absurd ((valid_iff d).1 hd) h
    | false => rfl
  simp [extractSignal, hv]

end Sys2Proof.Machine
end

