-- ==== Sys2Proof/Laws/State.lean ====
section
/-! SUPPORT. One lemma per field per update of State, true by rfl. -/

namespace Sys2Proof.Machine

section answer
variable (s : State) (b : Block) (r : Response)
@[simp] theorem State.answer_block : (s.answer b r).block = b := rfl
@[simp] theorem State.answer_ports : (s.answer b r).ports = s.ports := rfl
@[simp] theorem State.answer_inbox : (s.answer b r).inbox = s.inbox := rfl
@[simp] theorem State.answer_responses : (s.answer b r).responses = s.responses ++ [r] := rfl
end answer

section take
variable (s : State) (c : Command) (rest : List HostEvent)
@[simp] theorem State.take_block : (s.take c rest).block = s.block := rfl
@[simp] theorem State.take_ports : (s.take c rest).ports = c.ports := rfl
@[simp] theorem State.take_inbox : (s.take c rest).inbox = rest := rfl
@[simp] theorem State.take_responses : (s.take c rest).responses = s.responses := rfl
end take

section applyReset
variable (s : State) (rest : List HostEvent)
@[simp] theorem State.applyReset_block : (s.applyReset rest).block = Block.reset := rfl
@[simp] theorem State.applyReset_ports : (s.applyReset rest).ports = s.ports := rfl
@[simp] theorem State.applyReset_inbox : (s.applyReset rest).inbox = rest := rfl
@[simp] theorem State.applyReset_responses : (s.applyReset rest).responses = s.responses := rfl
end applyReset

section present
variable (s : State) (w : Word)
@[simp] theorem State.present_block : (s.present w).block = s.block := rfl
@[simp] theorem State.present_ports : (s.present w).ports = s.ports := rfl
@[simp] theorem State.present_inbox :
    (s.present w).inbox = .command { word := w, ports := s.ports } :: s.inbox := rfl
@[simp] theorem State.present_responses : (s.present w).responses = s.responses := rfl
end present

/-- The whole machine after a command taken from the inbox. -/
@[simp] theorem State.take_answer (s : State) (c : Command) (rest : List HostEvent) (b : Block) (r : Response) :
    (s.take c rest).answer b r =
      { block := b, ports := c.ports, inbox := rest, responses := s.responses ++ [r] } := rfl

/-- Taking a command that was presented with the ports as they stand gives the machine back. -/
theorem State.take_present (s : State) (w : Word) :
    (s.present w).take { word := w, ports := s.ports } s.inbox = s := rfl

end Sys2Proof.Machine
end

