-- ==== Sys2Proof/Laws/Ops.lean ====
section
/-! SUPPORT. What performing a command, running an operation and taking a step can do, said once each. -/

namespace Sys2Proof.Machine

/-- Everything `perform` can do: it answers the one next state of its effect. -/
theorem perform_eq_next {s t : State} {e : Effect} :
    s.perform e = .next t ↔ t = s.answer (e s.block s.ports).1 (e s.block s.ports).2 := by
  simp [State.perform, eq_comm]

/-- The effect of each operation. -/
def effectOf : Instr → Effect
  | .cfgWrite reg => cfgWriteEffect reg
  | .cfgRead reg => cfgReadEffect reg
  | .start => startEffect
  | .stop => stopEffect
  | .frame => frameEffect
  | .idDecode => idDecodeEffect
  | .extract => extractEffect

/-- Every arm of exec performs its effect. -/
theorem exec_eq_perform (i : Instr) (s : State) : exec i s = s.perform (effectOf i) := by
  cases i <;> rfl

/-- Inversion of exec: the next state is the effect's block with the effect's response added. -/
theorem exec_eq_next {i : Instr} {s t : State} :
    exec i s = .next t ↔ t = s.answer (effectOf i s.block s.ports).1 (effectOf i s.block s.ports).2 := by
  rw [exec_eq_perform, perform_eq_next]

/-- An operation answers with `b` and `r` exactly when its effect gives `b`, and `r` as the response. -/
theorem answers_iff {i : Instr} {s : State} {b : Block} {r : Response} :
    Answers i s b r ↔ effectOf i s.block s.ports = (b, r) := by
  unfold Answers
  rw [exec_eq_next]
  constructor
  · intro h
    have hb := congrArg State.block h
    have hr := congrArg State.responses h
    simp at hb hr
    exact Prod.ext hb.symm hr.symm
  · intro h
    rw [h]
    rfl

/-- The same with the effect's two parts. -/
theorem answers_effect (i : Instr) (s : State) :
    Answers i s (effectOf i s.block s.ports).1 (effectOf i s.block s.ports).2 := answers_iff.2 rfl

/-- The step with nothing presented. -/
theorem step_nil {s : State} (h : s.inbox = []) : step s = .next s := by
  unfold step; rw [h]

/-- The step that takes a reset. -/
theorem step_reset {s : State} {rest : List HostEvent} (h : s.inbox = .reset :: rest) :
    step s = .next (s.applyReset rest) := by
  unfold step; rw [h]

/-- The effect of a command word: its operation's, or the illegal one. -/
def wordEffect (w : Word) : Effect :=
  match decode w with
  | .ok i => effectOf i
  | .error _ => illegalEffect

/-- The step that takes a command: performed on the command's own ports. -/
theorem step_command {s : State} {c : Command} {rest : List HostEvent} (h : s.inbox = .command c :: rest) :
    step s = (s.take c rest).perform (wordEffect c.word) := by
  unfold step wordEffect
  rw [h]
  dsimp only
  cases decode c.word with
  | ok i => exact exec_eq_perform i _
  | error e => rfl

/-- Inversion of step: nothing presented, a reset taken, or a command performed. -/
theorem step_cases {s t : State} (h : step s = .next t) :
    (s.inbox = [] ∧ t = s) ∨
    (∃ rest, s.inbox = .reset :: rest ∧ t = s.applyReset rest) ∨
    (∃ c rest, s.inbox = .command c :: rest ∧
      t = (s.take c rest).answer (wordEffect c.word s.block c.ports).1 (wordEffect c.word s.block c.ports).2) := by
  cases hb : s.inbox with
  | nil => rw [step_nil hb] at h; cases h; exact .inl ⟨rfl, rfl⟩
  | cons e rest =>
    cases e with
    | reset => rw [step_reset hb] at h; cases h; exact .inr (.inl ⟨rest, rfl, rfl⟩)
    | command c =>
      rw [step_command hb, perform_eq_next] at h
      exact .inr (.inr ⟨c, rest, rfl, h⟩)

/-- One step that answers a next state, then the rest from there. -/
theorem runSteps_succ_next {n : Nat} {s t : State} (h : step s = .next t) : runSteps (n + 1) s = runSteps n t := by
  rw [runSteps, h]

end Sys2Proof.Machine
end

