-- ==== Sys2Proof/Laws/PerInstr.lean ====
section
/-! SUPPORT. Per instruction: the fields of its encoding are those of the tables (R60, R62, R63). -/

namespace Sys2Proof.Laws.EncodeFields

/-- The word that encodes an operation holds its OPC value, its register number (0 where it has none) and a zero MBZ field, and
the opcode is one of 0x01 to 0x07. -/
def Statement (i : Instr) : Prop :=
  opcField (encode i) = i.opcode ∧ regField (encode i) = i.regNumber ∧ mbzField (encode i) = 0 ∧
    1 ≤ i.opcode.toNat ∧ i.opcode.toNat ≤ 7

theorem cfgWrite (reg : Register) : Statement (.cfgWrite reg) := by cases reg <;> unfold Statement <;> decide
theorem cfgRead (reg : Register) : Statement (.cfgRead reg) := by cases reg <;> unfold Statement <;> decide
theorem start : Statement .start := by unfold Statement; decide
theorem stop : Statement .stop := by unfold Statement; decide
theorem frame : Statement .frame := by unfold Statement; decide
theorem idDecode : Statement .idDecode := by unfold Statement; decide
theorem extract : Statement .extract := by unfold Statement; decide

end Sys2Proof.Laws.EncodeFields
end

