-- ==== Sys2Proof/Tests/Slice0.lean ====
section
/-! SUPPORT. Small tests, their expected results from 95_test_vectors.md and the rules' own corner cases; and for each statement with
hypotheses a witness that meets them all. -/

namespace Sys2Proof.Tests

open Sys2Proof Sys2Proof.Machine

/-! ### Helpers -/

/-- The newest response of a next state. -/
def lastResponse (o : Host.Outcome State Fault Refusal) : Option Response :=
  match o with
  | .next t => t.responses.getLast?
  | _ => none

/-- The block of a next state. -/
def blockAfter (o : Host.Outcome State Fault Refusal) : Option Block :=
  match o with
  | .next t => some t.block
  | _ => none

/-- The SignalDefinition of W3: pgn 0xFEF1, byte 3, 8 bits, scale 4.0, offset 0. -/
def w3 : SignalDefinition := { pgn := 0xFEF1, byteOffset := 3, bitWidth := 8, scale := 0x00040000, offset := 0, unit := 0 }

/-- W3 with another byte offset and bit width. -/
def w3At (k w : Byte) : SignalDefinition := { w3 with byteOffset := k, bitWidth := w }

/-- P of 95_test_vectors.md: payload byte 3 is 0x1E. -/
def payloadP : Word64 := 0x0000001E00000000

/-- Q of 95_test_vectors.md: bytes 01 23 45 67 89 AB CD EF. -/
def payloadQ : Word64 := 0x0123456789ABCDEF

/-- A machine with the given staged definition, no run open. -/
def staged (d : SignalDefinition) (p : Ports) : State := { State.reset with block := { Block.reset with cfg := d }, ports := p }

/-- A machine with a run open on the given definition, at a position. -/
def running (d : SignalDefinition) (i : BitVec 32) (p : Ports) : State :=
  { State.reset with block := { Block.reset with cfg := d, act := d, run := true, index := i }, ports := p }

/-- A machine whose last START failed on bit width 0. -/
def failed (p : Ports) : State := { State.reset with block := { Block.reset with fatal := true, cerrWidth := true }, ports := p }

/-- A frame's ports, with tag 7. -/
def framePorts (fid : BitVec 32) (fdata : Word64) (flen : Byte) : Ports :=
  { fid := fid, fdata := fdata, flen := flen, ftag := 7, wdata := 0 }

/-- A written value on the wdata port. -/
def writePorts (v : Word64) : Ports := { Ports.zero with wdata := v }

/-! ### WellFormed refuses the ill-formed terms -/

theorem test_write_status_ill_formed : (Instr.cfgWrite .status).wellFormed = false := by decide
theorem test_write_frame_count_ill_formed : (Instr.cfgWrite .frameCount).wellFormed = false := by decide

/-! ### Decoding words written out from R60, R62, R63: OPC, REG, MBZ -/

theorem test_decode_cfg_write_pgn : decode 0b00000001_00000000_0000000000000000 = .ok (.cfgWrite .cfgPgn) := by decide
theorem test_decode_cfg_write_byte_offset :
    decode 0b00000001_00000001_0000000000000000 = .ok (.cfgWrite .cfgByteOffset) := by decide
theorem test_decode_cfg_write_bit_width :
    decode 0b00000001_00000010_0000000000000000 = .ok (.cfgWrite .cfgBitWidth) := by decide
theorem test_decode_cfg_write_scale : decode 0b00000001_00000011_0000000000000000 = .ok (.cfgWrite .cfgScale) := by decide
theorem test_decode_cfg_write_offset : decode 0b00000001_00000100_0000000000000000 = .ok (.cfgWrite .cfgOffset) := by decide
theorem test_decode_cfg_write_unit : decode 0b00000001_00000101_0000000000000000 = .ok (.cfgWrite .cfgUnit) := by decide
theorem test_decode_cfg_read_scale : decode 0b00000010_00000011_0000000000000000 = .ok (.cfgRead .cfgScale) := by decide
theorem test_decode_cfg_read_status : decode 0b00000010_00010000_0000000000000000 = .ok (.cfgRead .status) := by decide
theorem test_decode_cfg_read_frame_count :
    decode 0b00000010_00010001_0000000000000000 = .ok (.cfgRead .frameCount) := by decide
theorem test_decode_start : decode 0b00000011_00000000_0000000000000000 = .ok .start := by decide
theorem test_decode_stop : decode 0b00000100_00000000_0000000000000000 = .ok .stop := by decide
theorem test_decode_frame : decode 0b00000101_00000000_0000000000000000 = .ok .frame := by decide
theorem test_decode_id_decode : decode 0b00000110_00000000_0000000000000000 = .ok .idDecode := by decide
theorem test_decode_extract : decode 0b00000111_00000000_0000000000000000 = .ok .extract := by decide

/-- The illegal words of 95_test_vectors.md §2.8, each refused by name. -/
theorem test_illegal_words :
    [0x01060000, 0x01100000, 0x01110000, 0x01FF0000].map decode = List.replicate 4 (.error .notWritable) ∧
    [0x02060000, 0x02120000].map decode = List.replicate 2 (.error .unmappedRegister) ∧
    decode 0x05010000 = .error .regNotZero ∧
    [0x03000001, 0x0100FFFF].map decode = List.replicate 2 (.error .mbzNotZero) ∧
    [0x00000000, 0x08000000, 0xFF000000].map decode = List.replicate 3 (.error .reservedOpcode) := by decide

/-! ### One step per command -/

/-- §2.7: `CFG_WRITE CFG_BIT_WIDTH, 0x108` stores 0x08. -/
theorem test_cfg_write_ignores_upper_bits :
    blockAfter (exec (.cfgWrite .cfgBitWidth) (staged w3 (writePorts 0x108))) =
      some { Block.reset with cfg := { w3 with bitWidth := 0x08 } } := by decide

/-- §2.7: `CFG_WRITE CFG_PGN, 0xFFFFFFFFFFFFFEF1` stores 0xFEF1. -/
theorem test_cfg_write_pgn :
    blockAfter (exec (.cfgWrite .cfgPgn) (staged SignalDefinition.reset (writePorts 0xFFFFFFFFFFFFFEF1))) =
      some { Block.reset with cfg := { SignalDefinition.reset with pgn := 0xFEF1 } } := by decide

/-- §2.7: scale -1.0 reads back zero-extended. -/
theorem test_cfg_read_zero_extends :
    lastResponse (exec (.cfgRead .cfgScale) (staged { w3 with scale := 0xFFFF0000 } Ports.zero)) =
      some { status := .ok, rdata := 0x00000000FFFF0000 } := by decide

/-- L3 step 6: STATUS reads 0xA after a START failed on the width. -/
theorem test_cfg_read_status_failed :
    lastResponse (exec (.cfgRead .status) (failed Ports.zero)) = some { status := .ok, rdata := 0xA } := by decide

/-- R133's corner case: k = 7, w = 8 succeeds. -/
theorem test_start_last_byte :
    blockAfter (exec .start (staged (w3At 7 8) Ports.zero)) =
      some { Block.reset with cfg := w3At 7 8, act := w3At 7 8, run := true } := by decide

/-- R133's corner case: k = 7, w = 9 closes the run, sets both bits, restarts the positions and keeps the active definition. -/
theorem test_start_fails_with_both_bits :
    blockAfter (exec .start { (running w3 5 Ports.zero) with block := { (running w3 5 Ports.zero).block with cfg := w3At 7 9 } }) =
      some { Block.reset with cfg := w3At 7 9, act := w3, fatal := true, cerrRange := true, cerrWidth := true } := by decide

/-- R135's example: the count of the closed run stays readable. -/
theorem test_stop_keeps_the_index :
    blockAfter (exec .stop (running w3 3 Ports.zero)) = some { Block.reset with cfg := w3, act := w3, index := 3 } := by decide

/-- W2, W3: the source's frame. -/
theorem test_frame_ok :
    lastResponse (exec .frame (running w3 0 (framePorts 0x18FEF100 payloadP 64))) =
      some { status := .ok, prio := 6, pgn := 0xFEF1, sa := 0, raw := 0x1E, phys := 0x780000, tag := 7, index := 0 } := by decide

/-- §2.6: MALFORMED_PAYLOAD comes before NO_MATCH, and the last position wraps. -/
theorem test_frame_malformed_before_no_match :
    exec .frame (running w3 0xFFFFFFFF (framePorts 0x18FEF200 payloadP 65)) =
      .next { running w3 0 (framePorts 0x18FEF200 payloadP 65) with
              responses := [{ status := .malformedPayload, prio := 6, pgn := 0xFEF2, tag := 7, index := 0xFFFFFFFF }] } := rfl

/-- §2.1: 0x0CFE6CEE. -/
theorem test_id_decode :
    lastResponse (exec .idDecode (staged w3 (framePorts 0x0CFE6CEE 0 0))) =
      some { status := .ok, prio := 3, pgn := 0xFE6C, sa := 0xEE } := by decide

/-- §2.1: bit 29 over a valid pattern is not masked. -/
theorem test_id_decode_not_masked :
    lastResponse (exec .idDecode (staged w3 (framePorts 0x38FEF100 0 0))) = some { status := .invalidIdentifier } := by decide

/-- §2.5: (4, 4, -0.5, 10.0) on Q gives 0x8 and 6.0. -/
theorem test_extract_sub_byte :
    lastResponse (exec .extract
        (staged { w3 with byteOffset := 4, bitWidth := 4, scale := 0xFFFF8000, offset := 0x000A0000 } (framePorts 0 payloadQ 64))) =
      some { status := .ok, raw := 0x8, phys := 0x60000 } := by decide

/-- §2.5: the configuration is judged before the length. -/
theorem test_extract_configuration_first :
    lastResponse (exec .extract (staged (w3At 3 9) (framePorts 0 payloadP 63))) = some { status := .outOfRange } := by decide

/-- §2.3: the sub-byte rows on Q. -/
theorem test_raw_fields :
    [extractRaw payloadQ 5 3, extractRaw payloadQ 6 7, extractRaw payloadQ 7 2, extractRaw payloadQ 1 5, extractRaw payloadQ 2 6] =
      [5, 0x66, 3, 4, 0x11] := by decide

/-- §2.4: a negative offset, a negative scale, and the greatest value. -/
theorem test_conversions :
    [convert 255 0x00008000 0xFFD80000, convert 10 0xFFFF0000 0, convert 255 0x7FFFFFFF 0x7FFFFFFF] =
      [0x0000000000578000, 0xFFFFFFFFFFF60000, 0x0000007FFFFFFF00] := by decide

/-- §2.8: an illegal word placed as the next command answers ILLEGAL_COMMAND. -/
theorem test_illegal_step :
    lastResponse (step (State.reset.withFetchWord 32 0x01100000)) = some { status := .illegalCommand } := by decide

/-- §2.7: START right after reset answers OUT_OF_RANGE. -/
theorem test_start_from_reset :
    lastResponse (step (State.reset.withFetchWord 32 0x03000000)) = some { status := .outOfRange } := by decide

/-- A row's word through the table's numbering. -/
theorem test_table_word : decodeTableWord 32 0x05000000 = some .frame ∧ decodeTableWord 32 0x05010000 = none := by decide

/-- W11: the text "18FEF100" is presented as its number; R51: an unparseable text as all ones. -/
theorem test_fid_duty : fidOfIdentifier (some 0x18FEF100) = 0x18FEF100 ∧ fidOfIdentifier none = 0xFFFFFFFF := by decide

/-- R40's example: byte 3 = 0x1E. -/
theorem test_fdata_of_bytes : fdataOfBytes [0, 0, 0, 0x1E, 0, 0, 0, 0] = payloadP := by decide

/-- R40: the leftmost character is the most significant; byte 3 = 0x1E puts ones at characters 27 to 30. -/
theorem test_fdata_of_chars :
    fdataOfChars [false, false, false, true, true, true, true, false] = 0x1E ∧
    [26, 27, 30, 31].map (payloadChar payloadP) = [false, true, true, false] := by decide

/-- R69's example words. -/
theorem test_assembly_words :
    asmCfgWrite .cfgScale 0x00040000 = .command { word := 0x01030000, ports := writePorts 0x00040000 } ∧
    asmCfgRead .status = .command { word := 0x02100000, ports := Ports.zero } := by decide

/-- W5: a frame of another PGN gives neither a record nor an error. -/
theorem test_no_match_is_silent :
    collectRecords [(.frame, { status := .noMatch })] = [] ∧ collectErrors [(.frame, { status := .noMatch })] = [] := by decide

/-- R69: 4.0 is 0x00040000; I4: 0.05 is refused. -/
theorem test_literals : fixedLiteral 4 = some 0x00040000 ∧ fixedLiteral (1 / 20) = none := by
  constructor
  · norm_num [fixedLiteral, Config.frac]; rfl
  · norm_num [fixedLiteral, Config.frac]

/-! ### Witnesses: the hypotheses of each statement are met together -/

/-- Every case of R64 at its boundary words, and legal neighbours that fall under none. -/
theorem witness_IllegalWordsAnswerIllegalCommand :
    (∀ w ∈ [(0x00000000 : Word), 0x00FFFFFF, 0x08000000, 0xFF000000, 0x03000001, 0x0100FFFF, 0x03010000, 0x07FF0000, 0x01060000,
      0x01FF0000, 0x02060000, 0x020F0000, 0x02120000], IllegalWord w) ∧
    (∀ w ∈ [(0x01050000 : Word), 0x02050000, 0x02100000, 0x02110000, 0x03000000, 0x07000000], ¬ IllegalWord w) ∧
    ∃ (s : State) (c : Command) (rest : List HostEvent), s.inbox = .command c :: rest ∧ IllegalWord c.word := by
  refine ⟨by simp [IllegalWord], by simp [IllegalWord],
    State.reset.present 0, { word := 0, ports := Ports.zero }, [], rfl, by unfold IllegalWord; decide⟩

theorem witness_StepRunsTheDecodedCommand :
    ∃ (s : State) (c : Command) (rest : List HostEvent) (i : Instr), s.inbox = .command c :: rest ∧ decode c.word = .ok i :=
  ⟨State.reset.present 0x05000000, { word := 0x05000000, ports := Ports.zero }, [], .frame, rfl, rfl⟩

theorem witness_ResetGivesEveryElementItsValue :
    ∃ (s : State) (rest : List HostEvent), s.inbox = .reset :: rest ∧ s.block ≠ Block.reset :=
  ⟨{ (running w3 5 Ports.zero) with inbox := [.reset] }, [], rfl, by decide⟩

theorem witness_CommandsRightAfterReset : ∃ s : State, s.block = State.reset.block := ⟨State.reset, rfl⟩

theorem witness_NothingPresentedNothingHappens : ∃ s : State, s.inbox = [] := ⟨State.reset, rfl⟩

theorem witness_CommandsArePerformedInOrder :
    ∃ (s : State) (evs later : List HostEvent), s.inbox = evs ++ later ∧ evs.length = 3 ∧ later ≠ [] :=
  ⟨{ State.reset with inbox := [asmStart, .reset, asmStart, asmStart] }, [asmStart, .reset, asmStart], [asmStart], rfl, rfl, by decide⟩

theorem witness_StepKeepsTheInvariant :
    ∃ s t : State, s.block.Inv ∧ s.block.run = true ∧ step s = .next t :=
  ⟨(running w3 0 Ports.zero).present 0x05000000, _, by simp [Block.Inv, DefValid, running, w3, Block.reset], rfl, rfl⟩

/-- Each clause: operations other than the named writers, START on an invalid staged definition, and FRAME with no run open. -/
theorem witness_EachElementHasItsWriters :
    (∃ t, exec .stop (running w3 3 Ports.zero) = .next t) ∧
    (∃ t, exec .start (staged (w3At 8 8) Ports.zero) = .next t ∧ ¬ DefValid (staged (w3At 8 8) Ports.zero).block.cfg) ∧
    ∃ t, exec .frame (failed Ports.zero) = .next t ∧ (failed Ports.zero).block.run = false :=
  ⟨⟨_, rfl⟩, ⟨_, rfl, by unfold DefValid; decide⟩, ⟨_, rfl, rfl⟩⟩

theorem witness_StatusReadsOneOfFiveValues : (running w3 0 Ports.zero).block.Inv ∧ (failed Ports.zero).block.Inv := by
  simp [Block.Inv, DefValid, running, failed, w3, Block.reset, State.reset]

theorem witness_OnlyFramesOfARunReadTheActiveDefinition :
    (∃ i : Instr, i ≠ .frame) ∧ ∃ s : State, s.block.run = false := ⟨⟨.start, by decide⟩, State.reset, rfl⟩

theorem witness_NoComputationReadsTheUnit : ∃ i : Instr, i ≠ .cfgRead .cfgUnit := ⟨.frame, by decide⟩

theorem witness_ResponsesFollowTheFieldTable :
    ∃ (i : Instr) (s t : State) (r : Response), i.wellFormed = true ∧ exec i s = .next t ∧ t.responses = s.responses ++ [r] :=
  ⟨.frame, running w3 0 (framePorts 0x18FEF100 payloadP 64), _, _, rfl, rfl, rfl⟩

theorem witness_UnlistedPortsAreIgnored :
    ∃ (i : Instr) (s : State) (p : Ports), p ≠ s.ports ∧ (i = .frame ∨ i = .idDecode → p.fid = s.ports.fid) ∧
      (i = .frame ∨ i = .extract → p.fdata = s.ports.fdata ∧ p.flen = s.ports.flen) ∧ (i = .frame → p.ftag = s.ports.ftag) ∧
      ((∃ r, i = .cfgWrite r) → p.wdata = s.ports.wdata) :=
  ⟨.idDecode, State.reset, { Ports.zero with fdata := 1 }, by decide, fun _ => rfl, by simp, by simp, by simp⟩

theorem witness_ReadingCommandsAreRepeatable :
    ∃ i : Instr, (∃ reg, i = .cfgRead reg) ∨ i = .idDecode ∨ i = .extract := ⟨.extract, .inr (.inr rfl)⟩

theorem witness_CfgWriteStoresTheFieldBits : ∃ n, n < 256 ∧ 5 < n := ⟨6, by decide, by decide⟩

theorem witness_WritesToReadOnlyRegistersAreIllegal : ∃ reg : Register, reg.writable = false := ⟨.status, rfl⟩

theorem witness_CfgReadReturnsTheRegister : ∃ n, n < 256 ∧ 5 < n ∧ n ≠ 0x10 ∧ n ≠ 0x11 :=
  ⟨0x12, by decide, by decide, by decide, by decide⟩

theorem witness_ReadAfterWriteSeesTheFieldBits : ∃ reg other : Register, reg.writable = true ∧ other ≠ reg :=
  ⟨.cfgPgn, .status, rfl, by decide⟩

/-- R133's corner cases: (8, 8) fails for range only, (0, 9) and (0, 0) for width only, (7, 9) for both, (7, 8) succeeds. -/
theorem witness_StartOpensOrFailsTheRun :
    [(8, 8), (0, 9), (0, 0), (7, 9), (7, 8)].map
        (fun (kw : Nat × Nat) => (decide (8 ≤ kw.1 ∨ 8 < kw.1 + (kw.2 + 7) / 8), decide (kw.2 = 0 ∨ 8 < kw.2))) =
      [(true, false), (false, true), (false, true), (true, true), (false, false)] := by decide

theorem witness_StopClosesTheRun : ∃ s : State, s.block.run = false := ⟨State.reset, rfl⟩

theorem witness_FatalIsLeftOnlyByStartOrReset :
    ∃ s : State, s.block.Inv ∧ s.block.fatal = true ∧ ∃ i : Instr, i ≠ .start :=
  ⟨failed Ports.zero, by simp [Block.Inv, failed, Block.reset], rfl, .stop, by decide⟩

/-- Both clauses at their boundary: the largest valid and the smallest invalid identifier. -/
theorem witness_IdDecodeReportsTheFields :
    (staged w3 (framePorts 0x1FFFFFFF 0 0)).ports.fid.toNat < 2 ^ 29 ∧
    2 ^ 29 ≤ (staged w3 (framePorts 0x20000000 0 0)).ports.fid.toNat := by decide

theorem witness_IdentifierBits25And24AreNotRead :
    ∃ (s : State) (fid : BitVec 32), fid ≠ s.ports.fid ∧ fid &&& 0xFCFFFFFF = s.ports.fid &&& 0xFCFFFFFF :=
  ⟨staged w3 (framePorts 0x18FEF100 0 0), 0x1BFEF100, by decide, by decide⟩

theorem witness_RawFieldIsTheLeadingBitsOfTheByte : ∃ k w j : Nat, k ≤ 7 ∧ 1 ≤ w ∧ w ≤ 8 ∧ j < w :=
  ⟨7, 8, 7, by decide, by decide, by decide, by decide⟩

theorem witness_ConversionIsExact : ∃ j : Nat, 39 ≤ j ∧ j < 64 := ⟨63, by decide, by decide⟩

/-- The three clauses: byte 8 is invalid, byte 7 with 8 bits is valid, with 63 and with 64 payload bits. -/
theorem witness_ExtractUsesTheStagedDefinition :
    ¬ DefValid (w3At 8 8) ∧ DefValid (w3At 7 8) ∧ (framePorts 0 0 63).flen.toNat ≠ 64 ∧ (framePorts 0 0 64).flen.toNat = 64 := by
  unfold DefValid; decide

theorem witness_AssembledPayloadExtractsItsByte :
    ∃ (s : State) (bytes : List Byte) (k : Nat) (v : Byte), bytes.length = 8 ∧ bytes[k]? = some v ∧
      s.block.cfg.byteOffset.toNat = k ∧ s.block.cfg.bitWidth = 8 ∧ s.ports.flen = 64 ∧ s.ports.fdata = fdataOfBytes bytes :=
  ⟨staged w3 (framePorts 0 payloadP 64), [0, 0, 0, 0x1E, 0, 0, 0, 0], 3, 0x1E, by decide, by decide, by decide, by decide, by decide,
    by decide⟩

theorem witness_FrameWithoutARunIsNotRunning : ∃ s : State, s.block.run = false := ⟨State.reset, rfl⟩

/-- The three clauses: the smallest invalid identifier, 63 payload bits, and another PGN. -/
theorem witness_FrameErrorsAndMismatches :
    (running w3 0 Ports.zero).block.run = true ∧ 2 ^ 29 ≤ (framePorts 0x20000000 0 0).fid.toNat ∧
    ((framePorts 0x1FFFFFFF 0 63).fid.toNat < 2 ^ 29 ∧ (framePorts 0x1FFFFFFF 0 63).flen.toNat ≠ 64) ∧
    ((framePorts 0x18FEF200 0 64).fid.toNat < 2 ^ 29 ∧ (framePorts 0x18FEF200 0 64).flen.toNat = 64 ∧
      (framePorts 0x18FEF200 0 64).fid.toNat / 2 ^ 8 % 2 ^ 16 ≠ w3.pgn.toNat) := by decide

theorem witness_MatchingFrameIsDecoded :
    ∃ s : State, s.block.run = true ∧ DefValid s.block.act ∧ s.ports.fid.toNat < 2 ^ 29 ∧ s.ports.flen.toNat = 64 ∧
      s.ports.fid.toNat / 2 ^ 8 % 2 ^ 16 = s.block.act.pgn.toNat :=
  ⟨running (w3At 7 8) 0 (framePorts 0x1BFEF1FF payloadP 64), rfl, by unfold DefValid; decide, by decide, by decide, by decide⟩

/-- A block under the invariant whose frame is OK, one whose frame is not, and a valid staged definition at the last byte. -/
theorem witness_OkFrameResponsesCarryTheRunsSignal :
    (∃ s : State, s.block.Inv ∧ ∃ b r, Answers .frame s b r ∧ r.status = .ok) ∧
    (∃ s : State, s.block.Inv ∧ ∃ b r, Answers .frame s b r ∧ r.status ≠ .ok) ∧
    ∃ (s : State) (p : Ports), DefValid s.block.cfg ∧
      ∃ t, exec .start s = .next t ∧ ∃ b r, Answers .frame { t with ports := p } b r ∧ r.status = .ok :=
  ⟨⟨running w3 0 (framePorts 0x18FEF100 payloadP 64), by simp [Block.Inv, DefValid, running, w3, Block.reset], _, _, rfl, rfl⟩,
   ⟨failed Ports.zero, by simp [Block.Inv, failed, Block.reset], _, _, rfl, by decide⟩,
   staged (w3At 7 8) Ports.zero, framePorts 0x18FEF100 payloadP 64, by unfold DefValid; decide, _, rfl, _, _, rfl, rfl⟩

theorem witness_EveryFrameTakesOnePosition :
    (running w3 0xFFFFFFFF Ports.zero).block.run = true ∧
    ∃ s t : State, exec .start s = .next t ∧ t.block.run = true :=
  ⟨rfl, staged w3 Ports.zero, _, rfl, rfl⟩

theorem witness_FrameEchoesTheTagAndIsNeverOutOfRange : ∃ s : State, s.block.Inv ∧ s.block.run = true :=
  ⟨running w3 0 Ports.zero, by simp [Block.Inv, DefValid, running, w3, Block.reset], rfl⟩

theorem witness_FramesAreIndependent :
    ∃ s₁ s₂ : State, s₁ ≠ s₂ ∧ s₁.block.run = s₂.block.run ∧ s₁.block.index = s₂.block.index ∧ s₁.block.act = s₂.block.act ∧
      s₁.ports.fid = s₂.ports.fid ∧ s₁.ports.fdata = s₂.ports.fdata ∧ s₁.ports.flen = s₂.ports.flen ∧
      s₁.ports.ftag = s₂.ports.ftag :=
  ⟨State.reset, staged w3 (writePorts 1), by decide, rfl, rfl, rfl, rfl, rfl, rfl, rfl⟩

/-- An accepted frame and a rejected one. -/
theorem witness_RecordsAndErrorsFollowTheFrame :
    (∃ b r, Answers .frame (running w3 0 (framePorts 0x18FEF100 payloadP 64)) b r ∧ ∃ d, frameRecord r = some d) ∧
    ∃ b r, Answers .frame (running w3 0 (framePorts 0x18FEF100 payloadP 63)) b r ∧ ∃ e, frameError r = some e :=
  ⟨⟨_, _, rfl, _, rfl⟩, ⟨_, _, rfl, _, rfl⟩⟩

theorem witness_RunsAreIndependentOfEarlierRuns :
    ∃ (s₁ s₂ : State) (c : Command), s₁ ≠ s₂ ∧ decode c.word = .ok .start ∧ s₁.block.cfg = s₂.block.cfg ∧ DefValid s₁.block.cfg :=
  ⟨staged w3 Ports.zero, running w3 9 Ports.zero, { word := 0x03000000, ports := Ports.zero }, by decide, rfl, rfl,
    by unfold DefValid; decide⟩

theorem witness_OpenConfiguresAndOpensARun :
    ∃ (s : State) (d : SignalDefinition) (later : List HostEvent), DefValid d ∧ s.inbox = asmOpen d ++ later :=
  ⟨{ State.reset with inbox := asmOpen (w3At 7 8) ++ [.reset] }, w3At 7 8, [.reset], by unfold DefValid; decide, rfl⟩

/-- Identifiers on both sides of 2^29 and of 2^32, unparseable text, and lengths around 64 and 255. -/
theorem witness_HostMappingLosesNoError :
    (∀ id ∈ [none, some 0, some (2 ^ 29 - 1), some (2 ^ 29), some (2 ^ 32)],
      (staged w3 { Ports.zero with fid := fidOfIdentifier id }).ports.fid = fidOfIdentifier id) ∧
    (∀ n ∈ [0, 63, 64, 65, 255, 320], (staged w3 { Ports.zero with flen := flenOfLength n }).ports.flen = flenOfLength n) ∧
    DefValid w3 :=
  ⟨fun _ _ => rfl, fun _ _ => rfl, by unfold DefValid; decide⟩

end Sys2Proof.Tests
end

section
/-! Scope (00_scope.md): a step runs the decoded command. -/

namespace Sys2Proof.Machine

/-- All 32 bits of a word give the word back. -/
@[simp] theorem wordOfBits_toNat (w : Word) : wordOfBits 32 w.toNat = w := by
  rw [wordOfBits, Nat.mod_eq_of_lt w.isLt, BitVec.ofNat_toNat, BitVec.setWidth_eq]

/-- The effect of a word that decodes is its operation's (R6). -/
theorem wordEffect_of_decode {w : Word} {i : Instr} (h : decode w = .ok i) : wordEffect w = effectOf i := by
  unfold wordEffect
  rw [h]

/-- A legal command taken from the inbox runs its operation on the command's own ports (R6, R51). -/
theorem step_of_decode {s : State} {c : Command} {rest : List HostEvent} {i : Instr}
    (hin : s.inbox = .command c :: rest) (hdec : decode c.word = .ok i) : step s = exec i (s.take c rest) := by
  rw [step_command hin, wordEffect_of_decode hdec, exec_eq_perform]

/-- A legal word presented in front, with the ports as they stand, runs on the state itself (log 15). -/
theorem step_present {s : State} {w : Word} {i : Instr} (h : decode w = .ok i) : step (s.present w) = exec i s := by
  rw [step_of_decode (s.present_inbox w) h, State.take_present]

/-- Settles O5: both clauses are the step on a legal command, the second at the word put in front by `withFetchWord`. -/
theorem stepRunsTheDecodedCommand : Obligations.StepRunsTheDecodedCommand := by
  refine ⟨fun s c rest i hin hdec => step_of_decode hin hdec, fun s w i hdec => ?_⟩
  rw [State.withFetchWord, wordOfBits_toNat]
  exact step_present hdec

end Sys2Proof.Machine
end

section
/-! State (10_state.md): reset values, who writes and who reads each element, and the invariant of the block. -/

namespace Sys2Proof.Machine

/-! ### What each operation does to the block -/

/-- A write changes the staged definition at most, and its status is the register's alone (R130); a read-only register is not
written (R137). -/
theorem cfgWriteEffect_eq (reg : Register) (b : Block) (p : Ports) :
    cfgWriteEffect reg b p =
      ({ b with cfg := writeRegister reg p.wdata b.cfg }, { status := if reg.writable then .ok else .illegalCommand }) := by
  cases reg <;> rfl

@[simp] theorem cfgReadEffect_block (reg : Register) (b : Block) (p : Ports) : (cfgReadEffect reg b p).1 = b := rfl

@[simp] theorem stopEffect_block (b : Block) (p : Ports) : (stopEffect b p).1 = { b with run := false } := rfl

@[simp] theorem idDecodeEffect_block (b : Block) (p : Ports) : (idDecodeEffect b p).1 = b := by
  unfold idDecodeEffect
  split <;> rfl

@[simp] theorem extractEffect_block (b : Block) (p : Ports) : (extractEffect b p).1 = b := by
  unfold extractEffect
  split
  · rfl
  · split <;> rfl

/-- ID_DECODE reads no state (R82). -/
theorem idDecodeEffect_response (b b' : Block) (p : Ports) : (idDecodeEffect b p).2 = (idDecodeEffect b' p).2 := by
  unfold idDecodeEffect
  split <;> rfl

/-- EXTRACT reads of the state only what the staged definition extracts (R97). -/
theorem extractEffect_response {b b' : Block} {p : Ports} (h : extractSignal p.fdata b.cfg = extractSignal p.fdata b'.cfg) :
    (extractEffect b p).2 = (extractEffect b' p).2 := by
  unfold extractEffect
  rw [h]
  split
  · rfl
  · split <;> rfl

/-- With no run open a frame answers NOT_RUNNING and changes nothing (R113). -/
theorem frameEffect_of_not_run {b : Block} (h : b.run = false) (p : Ports) :
    frameEffect b p = (b, { status := .notRunning, tag := p.ftag }) := by
  simp [frameEffect, h]

/-- A frame of an open run takes the position `index`, which advances (R111, R112). -/
theorem frameEffect_of_run {b : Block} (h : b.run = true) (p : Ports) :
    frameEffect b p = ({ b with index := b.index + 1 }, frameResponse b.act b.index p) := by
  simp [frameEffect, h]

/-- Neither condition that START records holds exactly when the definition is valid (R90). -/
theorem cerr_or_eq_false_iff (d : SignalDefinition) :
    (cerrRange d.byteOffset d.bitWidth || cerrWidth d.bitWidth) = false ↔ DefValid d := by
  rw [← valid_iff, SignalDefinition.valid, validDef, ← Bool.not_or, Bool.not_eq_true']

theorem cerr_or_eq_true_of_not_valid {d : SignalDefinition} (h : ¬ DefValid d) :
    (cerrRange d.byteOffset d.bitWidth || cerrWidth d.bitWidth) = true :=
  Bool.eq_true_of_not_eq_false (mt (cerr_or_eq_false_iff d).1 h)

/-- START on a valid staged definition opens a run on a copy of it (R133). -/
theorem startEffect_of_valid {b : Block} (h : DefValid b.cfg) (p : Ports) :
    startEffect b p =
      ({ b with act := b.cfg, run := true, fatal := false, cerrRange := false, cerrWidth := false, index := 0 },
        { status := .ok }) := by
  obtain ⟨hr, hw⟩ := Bool.or_eq_false_iff.1 ((cerr_or_eq_false_iff b.cfg).2 h)
  simp [startEffect, hr, hw]

/-- START on an invalid staged definition fails, with the conditions of R90 that hold (R133). -/
theorem startEffect_of_not_valid {b : Block} (h : ¬ DefValid b.cfg) (p : Ports) :
    startEffect b p =
      ({ b with run := false, fatal := true, cerrRange := cerrRange b.cfg.byteOffset b.cfg.bitWidth,
                cerrWidth := cerrWidth b.cfg.bitWidth, index := 0 },
        { status := .outOfRange }) := by
  simp only [startEffect, if_pos (cerr_or_eq_true_of_not_valid h)]

/-! ### The invariant of the block (R27, R31, R32) -/

/-- All flags are 0, so no run is open and none has failed (R35). -/
theorem Block.reset_inv : Block.reset.Inv := ⟨nofun, nofun, rfl⟩

theorem startEffect_keeps_inv (b : Block) (p : Ports) : (startEffect b p).1.Inv := by
  by_cases hv : DefValid b.cfg
  · rw [startEffect_of_valid hv]
    exact ⟨fun _ => hv, nofun, rfl⟩
  · rw [startEffect_of_not_valid hv]
    exact ⟨nofun, nofun, (cerr_or_eq_true_of_not_valid hv).symm⟩

/-- Only START and STOP write an element the invariant speaks of: START judges afresh, STOP closes the run. -/
theorem effectOf_keeps_inv (i : Instr) {b : Block} (h : b.Inv) (p : Ports) : (effectOf i b p).1.Inv := by
  cases i with
  | cfgWrite reg => rw [effectOf, cfgWriteEffect_eq]; exact h
  | cfgRead reg => exact h
  | start => exact startEffect_keeps_inv b p
  | stop =>
    obtain ⟨-, -, hfatal⟩ := h
    exact ⟨nofun, nofun, hfatal⟩
  | frame =>
    cases hrun : b.run with
    | false => rw [effectOf, frameEffect_of_not_run hrun]; exact h
    | true => rw [effectOf, frameEffect_of_run hrun]; exact h
  | idDecode => rw [effectOf, idDecodeEffect_block]; exact h
  | extract => rw [effectOf, extractEffect_block]; exact h

theorem wordEffect_keeps_inv (w : Word) {b : Block} (h : b.Inv) (p : Ports) : (wordEffect w b p).1.Inv := by
  unfold wordEffect
  cases decode w with
  | ok i => exact effectOf_keeps_inv i h p
  | error e => exact h

/-- Settles O12, by the cases of a step: the idle step keeps the block, a reset gives it R35's values, and a command's effect keeps
the invariant. -/
theorem stepKeepsTheInvariant : Obligations.StepKeepsTheInvariant := by
  intro s t hinv hstep
  obtain ⟨-, rfl⟩ | ⟨rest, -, rfl⟩ | ⟨c, rest, -, rfl⟩ := step_cases hstep
  · exact hinv
  · exact Block.reset_inv
  · exact wordEffect_keeps_inv c.word hinv c.ports

/-- Settles O11: the block at reset has every flag 0. -/
theorem resetMeetsTheInvariant : Obligations.ResetMeetsTheInvariant := Block.reset_inv

/-- Settles O6: R35's values are those of `Block.reset`, which a step that takes a reset applies; bit width 0 is invalid. -/
theorem resetGivesEveryElementItsValue : Obligations.ResetGivesEveryElementItsValue := by
  refine ⟨rfl, ?_, fun s rest hin => step_reset hin⟩
  rintro ⟨-, hwidth, -⟩
  exact absurd hwidth (by decide)

/-! ### Writers (R22, R27, R30 to R32, R45) -/

/-- Settles O13, by the block after each operation; for START by whether the staged definition is valid. -/
theorem eachElementHasItsWriters : Obligations.EachElementHasItsWriters := by
  intro i s t hexec
  obtain rfl := exec_eq_next.1 hexec
  refine ⟨rfl, rfl, ?_⟩
  rw [State.answer_block]
  cases i with
  | cfgWrite reg => simp [effectOf, cfgWriteEffect_eq]
  | cfgRead reg => simp [effectOf]
  | start =>
    by_cases hv : DefValid s.block.cfg
    · simp [effectOf, startEffect_of_valid hv, hv]
    · simp [effectOf, startEffect_of_not_valid hv]
  | stop => simp [effectOf]
  | frame =>
    cases hrun : s.block.run with
    | false => simp [effectOf, frameEffect_of_not_run hrun, hrun]
    | true => simp [effectOf, frameEffect_of_run hrun, hrun]
  | idDecode => simp [effectOf]
  | extract => simp [effectOf]

/-! ### STATUS (R29, R132) -/

/-- STATUS over the flags: RUN excludes FATAL, and FATAL is one of the two conditions, so five values are left. -/
theorem statusWord_flags_mem : ∀ run cr cw : Bool, ¬(run = true ∧ (cr || cw) = true) →
    flagBit cw <<< 3 ||| flagBit cr <<< 2 ||| flagBit (cr || cw) <<< 1 ||| flagBit run ∈
      [(0x0 : Word64), 0x1, 0x6, 0xA, 0xE] := by
  decide

theorem statusWord_mem_of_inv {b : Block} (h : b.Inv) : statusWord b ∈ [(0x0 : Word64), 0x1, 0x6, 0xA, 0xE] := by
  obtain ⟨-, hexcl, hfatal⟩ := h
  rw [hfatal] at hexcl
  rw [statusWord, hfatal]
  exact statusWord_flags_mem b.run b.cerrRange b.cerrWidth hexcl

/-- Settles O14: CFG_READ answers the status word and keeps the block; the invariant leaves it five values. -/
theorem statusReadsOneOfFiveValues : Obligations.StatusReadsOneOfFiveValues := fun s hinv =>
  ⟨statusWord s.block, answers_iff.2 rfl, statusWord_mem_of_inv hinv⟩

/-! ### Who reads the active definition (R27, U12) -/

/-- An operation that reads no active definition gives with another one the same response, and keeps it or overwrites it. -/
theorem effectOf_with_act (i : Instr) {b : Block} (p : Ports) (a : SignalDefinition) (h : i ≠ .frame ∨ b.run = false) :
    effectOf i { b with act := a } p = ({ (effectOf i b p).1 with act := a }, (effectOf i b p).2) ∨
      effectOf i { b with act := a } p = effectOf i b p := by
  cases i with
  | cfgWrite reg => left; simp only [effectOf, cfgWriteEffect_eq]
  | cfgRead reg => left; cases reg <;> rfl
  | start =>
    by_cases hv : DefValid b.cfg
    · right
      rw [effectOf, startEffect_of_valid hv, startEffect_of_valid (b := { b with act := a }) hv]
    · left
      rw [effectOf, startEffect_of_not_valid hv, startEffect_of_not_valid (b := { b with act := a }) hv]
  | stop => left; rfl
  | frame =>
    have hrun : b.run = false := h.resolve_left (fun hne => hne rfl)
    left
    rw [effectOf, frameEffect_of_not_run hrun, frameEffect_of_not_run (b := { b with act := a }) hrun]
  | idDecode => left; exact Prod.ext (by simp [effectOf]) (idDecodeEffect_response _ _ p)
  | extract => left; exact Prod.ext (by simp [effectOf]) (extractEffect_response rfl)

/-- Settles O15: `effectOf_with_act`, as answers of the machine. -/
theorem onlyFramesOfARunReadTheActiveDefinition : Obligations.OnlyFramesOfARunReadTheActiveDefinition := by
  intro i s a h
  refine ⟨_, _, answers_effect i s, ?_⟩
  rw [answers_iff, answers_iff]
  exact effectOf_with_act i s.ports a h

/-! ### No computation reads the unit label (R28) -/

/-- The block with other unit labels. -/
def Block.relabel (b : Block) (u v : Word64) : Block :=
  { b with cfg := { b.cfg with unit := u }, act := { b.act with unit := v } }

/-- Of two relabellings the later one stands. -/
theorem Block.relabel_relabel (b : Block) (u v u' v' : Word64) : (b.relabel u v).relabel u' v' = b.relabel u' v' := rfl

/-- A write sees no label but the one it may replace. -/
theorem writeRegister_relabel (reg : Register) (x : Word64) (d : SignalDefinition) (u : Word64) :
    ∃ u', writeRegister reg x { d with unit := u } = { writeRegister reg x d with unit := u' } := by
  cases reg with
  | cfgUnit => exact ⟨x.extractLsb' 0 64, rfl⟩
  | _ => exact ⟨u, rfl⟩

theorem readRegister_relabel {reg : Register} (h : reg ≠ .cfgUnit) (b : Block) (u v : Word64) :
    readRegister reg (b.relabel u v) = readRegister reg b := by
  cases reg with
  | cfgUnit => exact absurd rfl h
  | _ => rfl

/-- The extractor reads no unit label. -/
theorem extractSignal_unit (fdata : Word64) (d : SignalDefinition) (u : Word64) :
    extractSignal fdata { d with unit := u } = extractSignal fdata d := rfl

/-- A frame is matched and decoded without the unit label. -/
theorem frameResponse_unit (act : SignalDefinition) (v : Word64) (i : BitVec 32) (p : Ports) :
    frameResponse { act with unit := v } i p = frameResponse act i p := rfl

/-- With other labels an operation gives the same response, and a block that differs in the labels at most. -/
theorem effectOf_relabel {i : Instr} (hi : i ≠ .cfgRead .cfgUnit) (b : Block) (p : Ports) (u v : Word64) :
    ∃ u' v', effectOf i (b.relabel u v) p = ((effectOf i b p).1.relabel u' v', (effectOf i b p).2) := by
  cases i with
  | cfgWrite reg =>
    obtain ⟨u', hu'⟩ := writeRegister_relabel reg p.wdata b.cfg u
    refine ⟨u', v, ?_⟩
    simp only [effectOf, cfgWriteEffect_eq, Block.relabel, hu']
  | cfgRead reg =>
    have hreg : reg ≠ .cfgUnit := fun h => hi (h ▸ rfl)
    refine ⟨u, v, ?_⟩
    simp only [effectOf, cfgReadEffect, readRegister_relabel hreg]
  | start =>
    by_cases hv : DefValid b.cfg
    · refine ⟨u, u, ?_⟩
      rw [effectOf, startEffect_of_valid hv, startEffect_of_valid (b := b.relabel u v) hv]
      rfl
    · refine ⟨u, v, ?_⟩
      rw [effectOf, startEffect_of_not_valid hv, startEffect_of_not_valid (b := b.relabel u v) hv]
      rfl
  | stop => exact ⟨u, v, rfl⟩
  | frame =>
    refine ⟨u, v, ?_⟩
    cases hrun : b.run with
    | false => rw [effectOf, frameEffect_of_not_run hrun, frameEffect_of_not_run (b := b.relabel u v) hrun]
    | true =>
      rw [effectOf, frameEffect_of_run hrun, frameEffect_of_run (b := b.relabel u v) hrun]
      exact Prod.ext rfl (frameResponse_unit ..)
  | idDecode => exact ⟨u, v, Prod.ext (by simp [effectOf]) (idDecodeEffect_response _ _ p)⟩
  | extract => exact ⟨u, v, Prod.ext (by simp [effectOf]) (extractEffect_response (extractSignal_unit ..))⟩

/-- Settles O16: `effectOf_relabel`, with both labels blanked afterwards. -/
theorem noComputationReadsTheUnit : Obligations.NoComputationReadsTheUnit := by
  intro i s u v hi
  obtain ⟨u', v', heff⟩ := effectOf_relabel hi s.block s.ports u v
  exact ⟨_, _, _, answers_effect i s, answers_iff.2 heff, Block.relabel_relabel _ u' v' 0 0⟩

end Sys2Proof.Machine
end

section
/-! Commands and the payload port (20_memory.md): order and responses, what the reading commands leave, and what the host presents. -/

namespace Sys2Proof.Machine

/-! ### The order of events (R46, R51) -/

/-- Settles O8: the idle case of a step. -/
theorem nothingPresentedNothingHappens : Obligations.NothingPresentedNothingHappens := fun _ hin => step_nil hin

/-- One event's block, ports and responses do not depend on what is presented after it or was answered before it; a command has
one response, a reset none. -/
theorem step_event (e : HostEvent) (b : Block) (p : Ports) :
    ∃ (b' : Block) (p' : Ports) (rs : List Response), rs.length = ([e].filter HostEvent.isCommand).length ∧
      ∀ (rest : List HostEvent) (earlier : List Response),
        step { block := b, ports := p, inbox := e :: rest, responses := earlier }
          = .next { block := b', ports := p', inbox := rest, responses := earlier ++ rs } := by
  cases e with
  | reset =>
    refine ⟨Block.reset, p, [], rfl, fun rest earlier => ?_⟩
    rw [step_reset rfl, List.append_nil]
    rfl
  | command c =>
    exact ⟨(wordEffect c.word b c.ports).1, c.ports, [(wordEffect c.word b c.ports).2], rfl, fun rest earlier => step_command rfl⟩

/-- As many steps as events perform just these events, in order; the steps after them go on with what is left (R46). -/
theorem runSteps_events (evs : List HostEvent) (b : Block) (p : Ports) :
    ∃ (b' : Block) (p' : Ports) (rs : List Response), rs.length = (evs.filter HostEvent.isCommand).length ∧
      ∀ (later : List HostEvent) (earlier : List Response) (n : Nat),
        runSteps (evs.length + n) { block := b, ports := p, inbox := evs ++ later, responses := earlier }
          = runSteps n { block := b', ports := p', inbox := later, responses := earlier ++ rs } := by
  induction evs generalizing b p with
  | nil => exact ⟨b, p, [], rfl, fun later earlier n => by simp⟩
  | cons e evs ih =>
    obtain ⟨b₁, p₁, rs₁, hlen₁, hstep⟩ := step_event e b p
    obtain ⟨b₂, p₂, rs₂, hlen₂, hrun⟩ := ih b₁ p₁
    refine ⟨b₂, p₂, rs₁ ++ rs₂, ?_, fun later earlier n => ?_⟩
    · rw [List.length_append, hlen₁, hlen₂, ← List.length_append, ← List.filter_append, List.singleton_append]
    · rw [List.length_cons, Nat.add_right_comm, List.cons_append, runSteps_succ_next (hstep ..), hrun, List.append_assoc]

/-- Settles O10: `runSteps_events`, with what is presented later, with nothing later, and with further steps. -/
theorem commandsArePerformedInOrder : Obligations.CommandsArePerformedInOrder := by
  rintro ⟨b, p, inbox, earlier⟩ evs later rfl
  obtain ⟨b', p', rs, hlen, hrun⟩ := runSteps_events evs b p
  refine ⟨b', p', rs, hlen, hrun later earlier 0, ?_, hrun later earlier⟩
  have halone := hrun [] earlier 0
  rw [List.append_nil] at halone
  exact halone

/-! ### The reading commands (R45) -/

/-- An operation that keeps the block answers the same again in the state it leaves: its effect reads block and ports only. -/
theorem answers_again {i : Instr} {s : State} {r : Response} (h : Answers i s s.block r) (r' : Response) :
    Answers i (s.answer s.block r') s.block r := by
  have heff : effectOf i s.block s.ports = (s.block, r) := answers_iff.1 h
  exact answers_iff.2 heff

/-- CFG_READ, ID_DECODE and EXTRACT write nothing. -/
theorem effectOf_reading_block {i : Instr} (h : (∃ reg, i = .cfgRead reg) ∨ i = .idDecode ∨ i = .extract) (b : Block) (p : Ports) :
    (effectOf i b p).1 = b := by
  obtain ⟨reg, rfl⟩ | rfl | rfl := h
  · exact cfgReadEffect_block reg b p
  · exact idDecodeEffect_block b p
  · exact extractEffect_block b p

/-- Settles O19: the block stays, so the effect and with it the response are the same again. -/
theorem readingCommandsAreRepeatable : Obligations.ReadingCommandsAreRepeatable := by
  intro i s hi
  have h : Answers i s s.block (effectOf i s.block s.ports).2 :=
    answers_iff.2 (Prod.ext (effectOf_reading_block hi s.block s.ports) rfl)
  exact ⟨_, s.answer s.block _, h, h, rfl, answers_again h _⟩

/-! ### ID_DECODE and EXTRACT, case by case (R82, R97) -/

/-- ID_DECODE answers OK exactly on the valid identifiers (R82). -/
theorem idDecodeEffect_ok_iff (b : Block) (p : Ports) : (idDecodeEffect b p).2.status = .ok ↔ p.fid.toNat < 2 ^ 29 := by
  rw [← idValid_iff, idDecodeEffect]
  cases idValid p.fid <;> simp

/-- R96 on a valid definition, with the values it gives. -/
theorem extractSignal_of_valid (fdata : Word64) {d : SignalDefinition} (h : DefValid d) :
    extractSignal fdata d =
      some (extractRaw fdata d.byteOffset.toNat d.bitWidth.toNat,
        convert (extractRaw fdata d.byteOffset.toNat d.bitWidth.toNat) d.scale d.offset) := by
  simp [extractSignal, (valid_iff d).2 h]

/-- R97 on a valid staged definition and a payload of the one decoded length. -/
theorem extractEffect_of_valid {b : Block} {p : Ports} {raw : Byte} (hd : DefValid b.cfg) (hlen : p.flen.toNat = 64)
    (hraw : extractRaw p.fdata b.cfg.byteOffset.toNat b.cfg.bitWidth.toNat = raw) :
    extractEffect b p = (b, { status := .ok, raw := raw, phys := convert raw b.cfg.scale b.cfg.offset }) := by
  simp [extractEffect, extractSignal_of_valid p.fdata hd, (lengthOk_iff p.flen).2 hlen, hraw]

/-- R97 on a valid staged definition and a payload of another length. -/
theorem extractEffect_of_malformed {b : Block} {p : Ports} (hd : DefValid b.cfg) (hlen : p.flen.toNat ≠ 64) :
    extractEffect b p = (b, { status := .malformedPayload }) := by
  have hlen' : lengthOk p.flen = false := Bool.eq_false_iff.2 (mt (lengthOk_iff p.flen).1 hlen)
  simp [extractEffect, extractSignal_of_valid p.fdata hd, hlen']

/-- On a valid staged definition EXTRACT answers OK exactly on payloads of the one decoded length. -/
theorem extractEffect_ok_iff {b : Block} (hd : DefValid b.cfg) (p : Ports) :
    (extractEffect b p).2.status = .ok ↔ p.flen.toNat = 64 := by
  by_cases hlen : p.flen.toNat = 64
  · simp [extractEffect_of_valid hd hlen rfl, hlen]
  · simp [extractEffect_of_malformed hd hlen, hlen]

/-! ### The payload assembled from bytes (R40) -/

/-- The port after one more byte: the bytes so far move up, the new one is the least significant. -/
theorem fdataOfBytes_concat (bytes : List Byte) (x : Byte) :
    fdataOfBytes (bytes ++ [x]) = fdataOfBytes bytes <<< 8 ||| x.setWidth 64 := by
  simp [fdataOfBytes]

theorem extractLsb'_push_last (acc : Word64) (x : Byte) : (acc <<< 8 ||| x.setWidth 64).extractLsb' 0 8 = x := by
  ext i hi
  have hin : i < 64 := by omega
  simp [hi, hin]

theorem extractLsb'_push_earlier (acc : Word64) (x : Byte) {n : Nat} (hn : n + 16 ≤ 64) :
    (acc <<< 8 ||| x.setWidth 64).extractLsb' (n + 8) 8 = acc.extractLsb' n 8 := by
  ext i hi
  have hin : n + 8 + i < 64 := by omega
  have hup : ¬ n + 8 + i < 8 := by omega
  have hback : n + 8 + i - 8 = n + i := by omega
  have hx : x.getLsbD (n + 8 + i) = false := BitVec.getLsbD_of_ge x _ (by omega)
  simp only [BitVec.getElem_extractLsb', BitVec.getLsbD_or, BitVec.getLsbD_shiftLeft, BitVec.getLsbD_setWidth, hin, hup, hback, hx,
    decide_true, decide_false, Bool.not_false, Bool.and_self, Bool.true_and, Bool.or_false]

/-- Of at most eight bytes each stands in the port, the last one lowest. -/
theorem extractLsb'_fdataOfBytes (bytes : List Byte) (hlen : bytes.length ≤ 8) {k : Nat} (hk : k < bytes.length) :
    (fdataOfBytes bytes).extractLsb' (8 * (bytes.length - 1 - k)) 8 = bytes[k] := by
  induction bytes using List.reverseRecOn with
  | nil => exact absurd hk (Nat.not_lt_zero k)
  | append_singleton bytes x ih =>
    rw [fdataOfBytes_concat]
    simp only [List.length_append, List.length_singleton] at hlen hk ⊢
    by_cases hlast : k = bytes.length
    · subst hlast
      simp [extractLsb'_push_last]
    · have hk' : k < bytes.length := by omega
      have hpos : 8 * (bytes.length + 1 - 1 - k) = 8 * (bytes.length - 1 - k) + 8 := by omega
      rw [hpos, extractLsb'_push_earlier _ _ (by omega), ih (by omega) hk', List.getElem_append_left hk']

/-- Eight bytes fill the port: byte k of the payload is the k-th one (R40). -/
theorem payloadByte_fdataOfBytes {bytes : List Byte} (hlen : bytes.length = 8) {k : Nat} (hk : k < bytes.length) :
    payloadByte (fdataOfBytes bytes) k = bytes[k] := by
  rw [← extractLsb'_fdataOfBytes bytes hlen.le hk, payloadByte, hlen]
  congr 1
  omega

/-- With bit width 8 the raw field is the whole byte (R91). -/
theorem extractRaw_eight (fdata : Word64) (k : Nat) : extractRaw fdata k 8 = payloadByte fdata k := by
  rw [extractRaw, payloadByte, BitVec.setWidth_eq, Nat.sub_right_comm]

/-- Settles O34: the definition is valid, its raw field is byte k of the assembled payload, and the conversion is exact. -/
theorem assembledPayloadExtractsItsByte : Obligations.AssembledPayloadExtractsItsByte := by
  intro s bytes k v hlen hget hoff hwidth hflen hdata
  obtain ⟨hk, hv⟩ := List.getElem?_eq_some_iff.1 hget
  have hw : s.block.cfg.bitWidth.toNat = 8 := congrArg BitVec.toNat hwidth
  have hvalid : DefValid s.block.cfg := ⟨by omega, by omega, by omega⟩
  have hraw : extractRaw s.ports.fdata s.block.cfg.byteOffset.toNat s.block.cfg.bitWidth.toNat = v := by
    rw [hdata, hoff, hw, extractRaw_eight, payloadByte_fdataOfBytes hlen hk, hv]
  exact ⟨_, answers_iff.2 (extractEffect_of_valid hvalid (congrArg BitVec.toNat hflen) hraw), convert_toInt ..⟩

/-! ### The host's duty for identifiers and lengths (R51, R176) -/

/-- Text that does not parse and values of 2^32 or more are presented as an invalid identifier, so no error is lost. -/
theorem fidOfIdentifier_valid_iff (id : Option Nat) :
    (fidOfIdentifier id).toNat < 2 ^ 29 ↔ ∃ v, id = some v ∧ v < 2 ^ 29 := by
  cases id with
  | none => simp [fidOfIdentifier]
  | some n =>
    simp only [fidOfIdentifier, Option.some.injEq, exists_eq_left']
    split
    next hn => rw [BitVec.toNat_ofNat, Nat.mod_eq_of_lt hn]
    next hn =>
      have hall : (0xFFFFFFFF : BitVec 32).toNat = 0xFFFFFFFF := rfl
      omega

/-- Saturation at 255 keeps the one decoded length apart from every other. -/
theorem flenOfLength_eq_iff (n : Nat) : (flenOfLength n).toNat = 64 ↔ n = 64 := by
  rw [flenOfLength, BitVec.toNat_ofNat]
  omega

/-- Settles O46: both commands keep the block, and OK is the validity of what was presented. -/
theorem hostMappingLosesNoError : Obligations.HostMappingLosesNoError := by
  refine fun s id n => ⟨fun hfid => ⟨(idDecodeEffect s.block s.ports).2, ?_, ?_⟩,
    fun hflen hvalid => ⟨(extractEffect s.block s.ports).2, ?_, ?_⟩⟩
  · exact answers_iff.2 (Prod.ext (idDecodeEffect_block ..) rfl)
  · rw [idDecodeEffect_ok_iff, hfid, fidOfIdentifier_valid_iff]
  · exact answers_iff.2 (Prod.ext (extractEffect_block ..) rfl)
  · rw [extractEffect_ok_iff hvalid, hflen, flenOfLength_eq_iff]

end Sys2Proof.Machine
end

section
/-! Encoding (30_encoding.md): the decoder against the encoder and the tables, and illegal words. -/

namespace Sys2Proof

/-! ### Round trip (R60, R62, R63, R65) -/

/-- The register numbers that CFG_WRITE takes (R63, R64 (d)). -/
theorem Register.writable_iff_number_le (r : Register) : r.writable = true ↔ r.number.toNat ≤ 5 := by
  cases r <;> decide

/-- The mapped register numbers (R63). -/
theorem Register.exists_number_iff (n : Nat) :
    (∃ r : Register, r.number.toNat = n) ↔ (n ≤ 5 ∨ n = 0x10 ∨ n = 0x11) := by
  constructor
  · rintro ⟨r, rfl⟩
    cases r <;> decide
  · rintro (h | rfl | rfl)
    · interval_cases n
      · exact ⟨.cfgPgn, rfl⟩
      · exact ⟨.cfgByteOffset, rfl⟩
      · exact ⟨.cfgBitWidth, rfl⟩
      · exact ⟨.cfgScale, rfl⟩
      · exact ⟨.cfgOffset, rfl⟩
      · exact ⟨.cfgUnit, rfl⟩
    · exact ⟨.status, rfl⟩
    · exact ⟨.frameCount, rfl⟩

theorem Instr.wellFormed_cfgWrite (r : Register) : (Instr.cfgWrite r).wellFormed = r.writable := by
  cases r <;> rfl

theorem decodePlain_eq_ok {reg : Byte} {i j : Instr} : decodePlain reg j = .ok i ↔ reg = 0 ∧ j = i := by
  unfold decodePlain
  split
  next h => simp [h]
  next h => exact iff_of_false nofun fun hj => h hj.1

theorem decodeWrite_eq_ok {reg : Byte} {i : Instr} :
    decodeWrite reg = .ok i ↔ ∃ r, r.number = reg ∧ r.writable = true ∧ .cfgWrite r = i := by
  simp only [← ofNumber_eq_some, decodeWrite]
  cases Register.ofNumber reg with
  | none => simp
  | some r => cases h : r.writable <;> simp [h]

theorem decodeRead_eq_ok {reg : Byte} {i : Instr} : decodeRead reg = .ok i ↔ ∃ r, r.number = reg ∧ .cfgRead r = i := by
  simp only [← ofNumber_eq_some, decodeRead]
  cases Register.ofNumber reg <;> simp

/-- A word that decodes has the three fields of its operation, which is well-formed (R65). -/
theorem fields_of_decode {w : Word} {i : Instr} (h : decode w = .ok i) :
    i.wellFormed = true ∧ mbzField w = 0 ∧ (opcField w).toNat = i.opcode.toNat ∧ regField w = i.regNumber := by
  unfold decode at h
  split at h
  · cases h
  next hmbz =>
    have hmbz : mbzField w = 0 := not_not.1 hmbz
    split at h
    next hopc =>
      obtain ⟨r, hreg, hwr, rfl⟩ := decodeWrite_eq_ok.1 h
      exact ⟨(Instr.wellFormed_cfgWrite r).trans hwr, hmbz, hopc, hreg.symm⟩
    next hopc =>
      obtain ⟨r, hreg, rfl⟩ := decodeRead_eq_ok.1 h
      exact ⟨rfl, hmbz, hopc, hreg.symm⟩
    case h_8 => cases h
    all_goals
      next hopc =>
        obtain ⟨hreg, rfl⟩ := decodePlain_eq_ok.1 h
        exact ⟨rfl, hmbz, hopc, hreg⟩

/-- The encoding of an operation as the word with its three fields: they take up the whole word (R60). -/
theorem encode_eq_iff (w : Word) (i : Instr) :
    encode i = w ↔ w.toNat % 2 ^ 16 = 0 ∧ w.toNat / 2 ^ 24 = i.opcode.toNat ∧ w.toNat / 2 ^ 16 % 256 = i.regNumber.toNat := by
  have hreg := i.regNumber.isLt
  rw [← BitVec.toNat_inj, encode_toNat]
  omega

theorem decode_encode {i : Instr} (h : i.wellFormed = true) : decode (encode i) = .ok i := by
  cases i with
  | cfgWrite r =>
    cases r with
    | status | frameCount => cases h
    | _ => rfl
  | cfgRead r => cases r <;> rfl
  | _ => rfl

theorem encode_of_decode {w : Word} {i : Instr} (h : decode w = .ok i) : encode i = w := by
  obtain ⟨-, hmbz, hopc, hreg⟩ := fields_of_decode h
  rw [encode_eq_iff, ← mbzField_toNat, ← opcField_toNat, ← regField_toNat]
  exact ⟨congrArg BitVec.toNat hmbz, hopc, congrArg BitVec.toNat hreg⟩

theorem decode_eq_ok_iff (w : Word) (i : Instr) : decode w = .ok i ↔ (i.wellFormed = true ∧ encode i = w) := by
  constructor
  · intro h
    obtain ⟨hwf, -⟩ := fields_of_decode h
    exact ⟨hwf, encode_of_decode h⟩
  · rintro ⟨hwf, rfl⟩
    exact decode_encode hwf

/-- Settles O2: decoding gives the operation's fields back, and these make up the whole word; an encoding decodes by the tables. -/
theorem decodeAndEncodeAgree : Obligations.DecodeAndEncodeAgree := decode_eq_ok_iff

/-- Settles O1: each word is the encoding of its operation. -/
theorem writtenOutWordsDecode : Obligations.WrittenOutWordsDecode :=
  ⟨decode_encode (i := .cfgWrite .cfgPgn) rfl, decode_encode (i := .cfgWrite .cfgUnit) rfl,
    decode_encode (i := .cfgRead .cfgByteOffset) rfl, decode_encode (i := .cfgRead .status) rfl,
    decode_encode (i := .cfgRead .frameCount) rfl, decode_encode (i := .start) rfl, decode_encode (i := .stop) rfl,
    decode_encode (i := .frame) rfl, decode_encode (i := .idDecode) rfl, decode_encode (i := .extract) rfl⟩

/-! ### The decoding procedure on numbers (R65) -/

/-- R65 for any operation, on the three fields as numbers. -/
theorem decode_eq_ok_iff_fields (w : Word) (i : Instr) :
    decode w = .ok i ↔ i.wellFormed = true ∧ w.toNat % 2 ^ 16 = 0 ∧ w.toNat / 2 ^ 24 = i.opcode.toNat ∧
      w.toNat / 2 ^ 16 % 256 = i.regNumber.toNat := by
  rw [decode_eq_ok_iff, encode_eq_iff]

theorem decode_eq_cfgWrite_iff (w : Word) (r : Register) :
    decode w = .ok (.cfgWrite r) ↔ w.toNat % 2 ^ 16 = 0 ∧ w.toNat / 2 ^ 24 = 0x01 ∧ w.toNat / 2 ^ 16 % 256 ≤ 0x05 ∧
      r.number.toNat = w.toNat / 2 ^ 16 % 256 := by
  have hopc : (Instr.cfgWrite r).opcode.toNat = 1 := rfl
  rw [decode_eq_ok_iff_fields, Instr.wellFormed_cfgWrite, Register.writable_iff_number_le, hopc, Instr.regNumber]
  omega

theorem decode_eq_cfgRead_iff (w : Word) (r : Register) :
    decode w = .ok (.cfgRead r) ↔ w.toNat % 2 ^ 16 = 0 ∧ w.toNat / 2 ^ 24 = 0x02 ∧
      (w.toNat / 2 ^ 16 % 256 ≤ 0x05 ∨ w.toNat / 2 ^ 16 % 256 = 0x10 ∨ w.toNat / 2 ^ 16 % 256 = 0x11) ∧
      r.number.toNat = w.toNat / 2 ^ 16 % 256 := by
  have hmapped := (Register.exists_number_iff r.number.toNat).1 ⟨r, rfl⟩
  have hopc : (Instr.cfgRead r).opcode.toNat = 2 := rfl
  rw [decode_eq_ok_iff_fields, and_iff_right (a := (Instr.cfgRead r).wellFormed = true) rfl, hopc, Instr.regNumber]
  omega

/-- The operations without a register operand. -/
theorem decode_eq_plain_iff (w : Word) {i : Instr} (hwf : i.wellFormed = true) (hreg : i.regNumber = 0) :
    decode w = .ok i ↔ w.toNat % 2 ^ 16 = 0 ∧ w.toNat / 2 ^ 24 = i.opcode.toNat ∧ w.toNat / 2 ^ 16 % 256 = 0 := by
  rw [decode_eq_ok_iff_fields, hreg]
  exact and_iff_right hwf

/-- Every operation that a word decodes to: 6 writes, 8 reads and 5 others (R65). -/
def legalInstrs : List Instr :=
  [.cfgWrite .cfgPgn, .cfgWrite .cfgByteOffset, .cfgWrite .cfgBitWidth, .cfgWrite .cfgScale, .cfgWrite .cfgOffset,
   .cfgWrite .cfgUnit, .cfgRead .cfgPgn, .cfgRead .cfgByteOffset, .cfgRead .cfgBitWidth, .cfgRead .cfgScale, .cfgRead .cfgOffset,
   .cfgRead .cfgUnit, .cfgRead .status, .cfgRead .frameCount, .start, .stop, .frame, .idDecode, .extract]

theorem mem_legalInstrs_iff (i : Instr) : i ∈ legalInstrs ↔ i.wellFormed = true := by
  cases i with
  | cfgWrite r => cases r <;> decide
  | cfgRead r => cases r <;> decide
  | _ => decide

/-- The words that decode are the encodings of the legal operations. -/
theorem exists_decode_iff_mem (w : Word) : (∃ i, decode w = .ok i) ↔ w ∈ legalInstrs.map encode := by
  simp only [List.mem_map, mem_legalInstrs_iff, decode_eq_ok_iff]

/-- Settles O3: R65 read off the fields of the encoding; the 19 words are the encodings of the legal operations, in order. -/
theorem decodingProcedureOfEveryWord : Obligations.DecodingProcedureOfEveryWord :=
  ⟨fun w => ⟨decode_eq_cfgWrite_iff w, decode_eq_cfgRead_iff w, decode_eq_plain_iff w rfl rfl, decode_eq_plain_iff w rfl rfl,
      decode_eq_plain_iff w rfl rfl, decode_eq_plain_iff w rfl rfl, decode_eq_plain_iff w rfl rfl⟩,
    legalInstrs.map encode, rfl, rfl, by decide, exists_decode_iff_mem⟩

/-! ### Illegal words (R64, R157) -/

/-- The opcodes of the operations without a register operand (R62). -/
theorem exists_plain_of_opcode {n : Nat} (hlo : 3 ≤ n) (hhi : n ≤ 7) :
    ∃ i : Instr, i.wellFormed = true ∧ i.regNumber = 0 ∧ n = i.opcode.toNat := by
  interval_cases n
  · exact ⟨.start, rfl, rfl, rfl⟩
  · exact ⟨.stop, rfl, rfl, rfl⟩
  · exact ⟨.frame, rfl, rfl, rfl⟩
  · exact ⟨.idDecode, rfl, rfl, rfl⟩
  · exact ⟨.extract, rfl, rfl, rfl⟩

end Sys2Proof

namespace Sys2Proof.Machine

/-- No word that decodes falls under a case of R64. -/
theorem not_illegalWord_of_decode {w : Word} {i : Instr} (h : decode w = .ok i) : ¬ IllegalWord w := by
  unfold IllegalWord
  cases i with
  | cfgWrite r =>
    rw [decode_eq_cfgWrite_iff] at h
    omega
  | cfgRead r =>
    rw [decode_eq_cfgRead_iff] at h
    omega
  | _ =>
    rw [decode_eq_plain_iff w rfl rfl] at h
    simp only [Instr.opcode, BitVec.ofNat_eq_ofNat, BitVec.toNat_ofNat] at h
    omega

/-- A word under no case of R64 decodes: its opcode is one of the seven, and its register number one the operation takes. -/
theorem exists_decode_of_not_illegalWord {w : Word} (h : ¬ IllegalWord w) : ∃ i, decode w = .ok i := by
  unfold IllegalWord at h
  obtain hopc | hopc | hopc :
      w.toNat / 2 ^ 24 = 1 ∨ w.toNat / 2 ^ 24 = 2 ∨ 3 ≤ w.toNat / 2 ^ 24 ∧ w.toNat / 2 ^ 24 ≤ 7 := by omega
  · obtain ⟨r, hr⟩ := (Register.exists_number_iff (w.toNat / 2 ^ 16 % 256)).2 (by omega)
    exact ⟨.cfgWrite r, (decode_eq_cfgWrite_iff w r).2 ⟨by omega, hopc, by omega, hr⟩⟩
  · obtain ⟨r, hr⟩ := (Register.exists_number_iff (w.toNat / 2 ^ 16 % 256)).2 (by omega)
    exact ⟨.cfgRead r, (decode_eq_cfgRead_iff w r).2 ⟨by omega, hopc, by omega, hr⟩⟩
  · obtain ⟨i, hwf, hreg, hi⟩ := exists_plain_of_opcode hopc.1 hopc.2
    exact ⟨i, (decode_eq_plain_iff w hwf hreg).2 ⟨by omega, hi, by omega⟩⟩

theorem illegalWord_iff (w : Word) : IllegalWord w ↔ ∀ i, decode w ≠ .ok i :=
  ⟨fun hw _ hdec => not_illegalWord_of_decode hdec hw,
    fun hno => not_not.1 fun hw => let ⟨i, hdec⟩ := exists_decode_of_not_illegalWord hw; hno i hdec⟩

theorem wordEffect_of_illegalWord {w : Word} (h : IllegalWord w) : wordEffect w = illegalEffect := by
  have hno := (illegalWord_iff w).1 h
  unfold wordEffect
  cases hdec : decode w with
  | ok i => exact absurd hdec (hno i)
  | error e => rfl

/-- Settles O4: `illegalWord_iff`, and the step that takes such a word performs the illegal effect. -/
theorem illegalWordsAnswerIllegalCommand : Obligations.IllegalWordsAnswerIllegalCommand := by
  refine ⟨illegalWord_iff, fun s c rest hin hill => ?_⟩
  rw [step_command hin, wordEffect_of_illegalWord hill]
  rfl

/-! ### Responses (R66, R67, R68) -/

/-- An operation adds the response of its effect and no other. -/
theorem response_of_exec {i : Instr} {s t : State} {r : Response} (hexec : exec i s = .next t)
    (hresp : t.responses = s.responses ++ [r]) : (effectOf i s.block s.ports).2 = r := by
  obtain rfl := exec_eq_next.1 hexec
  rw [State.answer_responses] at hresp
  exact List.singleton_inj.1 (List.append_cancel_left hresp)

/-- START's rows of R66. -/
theorem startEffect_response (b : Block) (p : Ports) :
    (startEffect b p).2 = { status := .ok } ∨ (startEffect b p).2 = { status := .outOfRange } := by
  by_cases hv : DefValid b.cfg
  · exact .inl (by rw [startEffect_of_valid hv])
  · exact .inr (by rw [startEffect_of_not_valid hv])

/-- ID_DECODE's rows of R66. -/
theorem idDecodeEffect_response_fields {b : Block} {p : Ports} {r : Response} (h : (idDecodeEffect b p).2 = r) :
    r = { status := .ok, prio := r.prio, pgn := r.pgn, sa := r.sa } ∨ r = { status := .invalidIdentifier } := by
  subst h
  unfold idDecodeEffect
  split
  · exact .inr rfl
  · exact .inl rfl

/-- EXTRACT's rows of R66. -/
theorem extractEffect_response_fields {b : Block} {p : Ports} {r : Response} (h : (extractEffect b p).2 = r) :
    r = { status := .ok, raw := r.raw, phys := r.phys } ∨ r = { status := .outOfRange } ∨ r = { status := .malformedPayload } := by
  subst h
  unfold extractEffect
  split
  · exact .inr (.inl rfl)
  · split
    · exact .inr (.inr rfl)
    · exact .inl rfl

/-- FRAME's rows of R66 for an open run. -/
theorem frameResponse_fields {act : SignalDefinition} {i : BitVec 32} {p : Ports} {r : Response} (h : frameResponse act i p = r) :
    r = { status := .invalidIdentifier, tag := r.tag, index := r.index } ∨
    r = { status := .malformedPayload, tag := r.tag, index := r.index, prio := r.prio, pgn := r.pgn, sa := r.sa } ∨
    r = { status := .noMatch, tag := r.tag, index := r.index, prio := r.prio, pgn := r.pgn, sa := r.sa } ∨
    r = { status := .ok, tag := r.tag, index := r.index, prio := r.prio, pgn := r.pgn, sa := r.sa, raw := r.raw,
          phys := r.phys } := by
  subst h
  unfold frameResponse
  split
  · exact .inl rfl
  · dsimp only
    split
    · exact .inr (.inl rfl)
    · split
      · exact .inr (.inr (.inl rfl))
      · exact .inr (.inr (.inr rfl))

/-- Settles O17: the added response is the effect's, and each effect keeps to its rows of the table. -/
theorem responsesFollowTheFieldTable : Obligations.ResponsesFollowTheFieldTable := by
  refine ⟨by decide, fun i s t r hwf hexec hresp => ?_⟩
  have hr : (effectOf i s.block s.ports).2 = r := response_of_exec hexec hresp
  refine ⟨?_, ?_, ?_, ?_, ?_, ?_, ?_⟩
  · rintro reg rfl
    rw [Instr.wellFormed_cfgWrite] at hwf
    rw [← hr, effectOf, cfgWriteEffect_eq, hwf]
    rfl
  · rintro reg rfl
    subst hr
    rfl
  · rintro rfl
    rw [← hr]
    exact startEffect_response s.block s.ports
  · rintro rfl
    exact hr.symm
  · rintro rfl
    rw [effectOf] at hr
    cases hrun : s.block.run with
    | false =>
      rw [frameEffect_of_not_run hrun] at hr
      subst hr
      exact .inl rfl
    | true =>
      rw [frameEffect_of_run hrun] at hr
      exact .inr (frameResponse_fields hr)
  · rintro rfl
    exact idDecodeEffect_response_fields hr
  · rintro rfl
    exact extractEffect_response_fields hr

/-! ### Ports (R61) -/

/-- R61's table as an agreement: `p` and `q` hold the same on every port listed for the operation. -/
def ListedPortsAgree (i : Instr) (p q : Ports) : Prop :=
  (i = .frame ∨ i = .idDecode → p.fid = q.fid) ∧ (i = .frame ∨ i = .extract → p.fdata = q.fdata ∧ p.flen = q.flen) ∧
    (i = .frame → p.ftag = q.ftag) ∧ ((∃ r, i = .cfgWrite r) → p.wdata = q.wdata)

/-- The effect of an operation is a function of the block and the listed ports. -/
theorem effectOf_of_listedPortsAgree {i : Instr} {p q : Ports} (h : ListedPortsAgree i p q) (b : Block) :
    effectOf i b p = effectOf i b q := by
  obtain ⟨hfid, hpay, htag, hwdata⟩ := h
  cases i with
  | cfgWrite reg => rw [effectOf, cfgWriteEffect_eq, cfgWriteEffect_eq, hwdata ⟨reg, rfl⟩]
  | cfgRead reg => rfl
  | start => rfl
  | stop => rfl
  | frame =>
    obtain ⟨hfdata, hflen⟩ := hpay (.inl rfl)
    simp only [effectOf, frameEffect, frameResponse, hfid (.inl rfl), hfdata, hflen, htag rfl]
  | idDecode => simp only [effectOf, idDecodeEffect, hfid (.inr rfl)]
  | extract =>
    obtain ⟨hfdata, hflen⟩ := hpay (.inr rfl)
    simp only [effectOf, extractEffect, hfdata, hflen]

/-- Settles O18: `effectOf_of_listedPortsAgree`, as answers of the machine. -/
theorem unlistedPortsAreIgnored : Obligations.UnlistedPortsAreIgnored :=
  fun i s _ hfid hpay htag hwdata =>
    ⟨_, _, answers_effect i s, answers_iff.2 (effectOf_of_listedPortsAgree ⟨hfid, hpay, htag, hwdata⟩ s.block)⟩

/-! ### CONFIGURE and OPEN (R70, R172) -/

/-- The assembly lines of a list of writes (R69). -/
def asmWrites (writes : List (Register × Word64)) : List HostEvent := writes.map fun w => asmCfgWrite w.1 w.2

/-- The definition that a list of writes, in order, leaves staged. -/
def writeRegisters (writes : List (Register × Word64)) (cfg : SignalDefinition) : SignalDefinition :=
  writes.foldl (fun cfg w => writeRegister w.1 w.2 cfg) cfg

/-- The six writes of CONFIGURE (R70). -/
def configureWrites (d : SignalDefinition) : List (Register × Word64) :=
  [(.cfgPgn, d.pgn.setWidth 64), (.cfgByteOffset, d.byteOffset.setWidth 64), (.cfgBitWidth, d.bitWidth.setWidth 64),
   (.cfgScale, d.scale.setWidth 64), (.cfgOffset, d.offset.setWidth 64), (.cfgUnit, d.unit)]

theorem extractLsb'_zero_setWidth {n m : Nat} (h : n ≤ m) (x : BitVec n) : (x.setWidth m).extractLsb' 0 n = x := by
  rw [← BitVec.setWidth_eq_extractLsb' h, BitVec.setWidth_setWidth_of_le x h, BitVec.setWidth_eq]

theorem asmWrites_configureWrites (d : SignalDefinition) : asmWrites (configureWrites d) = asmConfigure d := rfl

theorem configureWrites_writable (d : SignalDefinition) : ∀ w ∈ configureWrites d, w.1.writable = true := by
  simp [configureWrites, Register.writable]

/-- Cutting a zero-extended field back to its width gives the field, so the six writes stage the definition (R44, R131). -/
theorem writeRegisters_configureWrites (d cfg : SignalDefinition) : writeRegisters (configureWrites d) cfg = d := by
  simp [writeRegisters, configureWrites, writeRegister, extractLsb'_zero_setWidth]

/-- A write line at the front of the inbox is performed (R130). -/
theorem step_asmCfgWrite {reg : Register} (hwr : reg.writable = true) (wdata : Word64) (b : Block) (p : Ports)
    (rest : List HostEvent) (earlier : List Response) :
    step { block := b, ports := p, inbox := asmCfgWrite reg wdata :: rest, responses := earlier } = .next
      { block := { b with cfg := writeRegister reg wdata b.cfg }, ports := { Ports.zero with wdata := wdata }, inbox := rest,
        responses := earlier ++ [{ status := .ok }] } := by
  have hdec : decode (encode (.cfgWrite reg)) = .ok (.cfgWrite reg) :=
    decode_encode ((Instr.wellFormed_cfgWrite reg).trans hwr)
  rw [step_of_decode rfl hdec, exec_eq_next, effectOf, cfgWriteEffect_eq, hwr]
  rfl

/-- Write lines presented first are performed in order, each answered OK; the steps after them go on with what is left. -/
theorem runSteps_asmWrites {writes : List (Register × Word64)} (hwr : ∀ w ∈ writes, w.1.writable = true) (b : Block) (p : Ports)
    (rest : List HostEvent) (earlier : List Response) (n : Nat) :
    ∃ p', runSteps (writes.length + n)
        { block := b, ports := p, inbox := asmWrites writes ++ rest, responses := earlier } = runSteps n
        { block := { b with cfg := writeRegisters writes b.cfg }, ports := p', inbox := rest,
          responses := earlier ++ List.replicate writes.length { status := .ok } } := by
  induction writes generalizing b p earlier with
  | nil => exact ⟨p, by simp [asmWrites, writeRegisters]⟩
  | cons w writes ih =>
    obtain ⟨hw, hws⟩ := List.forall_mem_cons.1 hwr
    obtain ⟨p', hrun⟩ := ih hws { b with cfg := writeRegister w.1 w.2 b.cfg } { Ports.zero with wdata := w.2 }
      (earlier ++ [{ status := .ok }])
    refine ⟨p', ?_⟩
    rw [List.length_cons, Nat.add_right_comm, asmWrites, List.map_cons, List.cons_append,
      runSteps_succ_next (step_asmCfgWrite hw ..), ← asmWrites, hrun, List.append_assoc]
    rfl

/-- The line `START` on a valid staged definition opens a run on it (R133). -/
theorem step_asmStart_of_valid {b : Block} (hv : DefValid b.cfg) (p : Ports) (rest : List HostEvent) (earlier : List Response) :
    step { block := b, ports := p, inbox := asmStart :: rest, responses := earlier } = .next
      { block := { b with act := b.cfg, run := true, fatal := false, cerrRange := false, cerrWidth := false, index := 0 },
        ports := Ports.zero, inbox := rest, responses := earlier ++ [{ status := .ok }] } := by
  rw [step_of_decode rfl (decode_encode rfl), exec_eq_next, effectOf, State.take_block, startEffect_of_valid hv]
  rfl

/-- Settles O45: the six writes stage `d` whatever was staged before, and START opens a run on it. -/
theorem openConfiguresAndOpensARun : Obligations.OpenConfiguresAndOpensARun := by
  rintro ⟨b, p, inbox, earlier⟩ d later hv rfl
  obtain ⟨p', hrun⟩ := runSteps_asmWrites (configureWrites_writable d) b p (asmStart :: later) earlier 1
  rw [writeRegisters_configureWrites, runSteps_succ_next (step_asmStart_of_valid hv ..), asmWrites_configureWrites,
    List.append_assoc] at hrun
  rw [asmOpen, List.append_assoc]
  exact ⟨Ports.zero, hrun⟩

/-! ### Literals (R69) -/

theorem intCast_eq_rat_iff (n : Int) (x : Rat) : (n : Rat) = x ↔ x.den = 1 ∧ x.num = n := by
  constructor
  · rintro rfl
    exact ⟨Rat.den_intCast n, Rat.num_intCast n⟩
  · rintro ⟨hden, rfl⟩
    exact (Rat.den_eq_one_iff x).1 hden

/-- A pattern denotes an integer exactly when the integer is in the signed range and the pattern is its own. -/
theorem toInt_eq_iff (b : BitVec 32) (n : Int) : b.toInt = n ↔ (-2 ^ 31 ≤ n ∧ n ≤ 2 ^ 31 - 1) ∧ BitVec.ofInt 32 n = b := by
  constructor
  · rintro rfl
    exact ⟨⟨BitVec.le_toInt b, Int.le_sub_one_of_lt BitVec.toInt_lt⟩, BitVec.ofInt_toInt⟩
  · rintro ⟨⟨hlo, hhi⟩, rfl⟩
    exact BitVec.toInt_ofInt_eq_self (by decide) hlo (Int.lt_of_le_sub_one hhi)

/-- Settles O47: `v × 2^16` is accepted exactly when it is an integer that 32 bits hold, and its pattern then has that value. -/
theorem literalsAreNeverRounded : Obligations.LiteralsAreNeverRounded := by
  intro v b
  rw [fixedLiteral, Config.frac, Option.ite_some_none_eq_some, intCast_eq_rat_iff, eq_comm (b := b.toInt), toInt_eq_iff, and_assoc]

end Sys2Proof.Machine
end

section
/-! Identifier (40_identifier.md): ID_DECODE case by case, and the two identifier bits that nothing reads. -/

namespace Sys2Proof.Machine

/-! ### ID_DECODE (R80, R81, R82) -/

theorem idValid_eq_false_iff (raw : BitVec 32) : idValid raw = false ↔ 2 ^ 29 ≤ raw.toNat := by
  rw [Bool.eq_false_iff, Ne, idValid_iff, Nat.not_lt]

/-- A valid identifier is answered with its decoded fields. -/
theorem idDecodeEffect_of_valid {p : Ports} (h : p.fid.toNat < 2 ^ 29) (b : Block) :
    idDecodeEffect b p =
      (b, { status := .ok, prio := (decodeIdentifier p.fid).prio, pgn := (decodeIdentifier p.fid).pgn,
            sa := (decodeIdentifier p.fid).sa }) := by
  simp [idDecodeEffect, (idValid_iff p.fid).2 h]

/-- An invalid identifier is rejected, never masked (R81). -/
theorem idDecodeEffect_of_invalid {p : Ports} (h : 2 ^ 29 ≤ p.fid.toNat) (b : Block) :
    idDecodeEffect b p = (b, { status := .invalidIdentifier }) := by
  simp [idDecodeEffect, (idValid_eq_false_iff p.fid).2 h]

/-- Settles O28: the word is the encoding of ID_DECODE; the two cases are those of the effect, with R80's formulas for the fields. -/
theorem idDecodeReportsTheFields : Obligations.IdDecodeReportsTheFields := by
  refine ⟨decode_encode (i := .idDecode) rfl, fun s => ⟨fun hvalid => ?_, fun hinvalid => ?_⟩⟩
  · rw [answers_iff, effectOf, idDecodeEffect_of_valid hvalid, decodeIdentifier_eq]
  · rw [answers_iff, effectOf, idDecodeEffect_of_invalid hinvalid]

/-! ### Bits 25 and 24 (R83) -/

/-- Words that agree under a mask agree on every slice that the mask covers. -/
theorem extractLsb'_eq_of_and_eq {w start len : Nat} {x y mask : BitVec w}
    (hmask : mask.extractLsb' start len = BitVec.allOnes len) (h : x &&& mask = y &&& mask) :
    x.extractLsb' start len = y.extractLsb' start len := by
  have hslice := congrArg (BitVec.extractLsb' start len) h
  rwa [BitVec.extractLsb'_and, BitVec.extractLsb'_and, hmask, BitVec.and_allOnes, BitVec.and_allOnes] at hslice

/-- The validity check reads bits 31 to 29 only. -/
theorem idValid_of_agree {x y : BitVec 32} (h : x &&& 0xFCFFFFFF = y &&& 0xFCFFFFFF) : idValid x = idValid y := by
  rw [idValid, idValid, extractLsb'_eq_of_and_eq (by decide) h]

/-- The three fields lie in bits 28 to 26, 23 to 8 and 7 to 0. -/
theorem decodeIdentifier_of_agree {x y : BitVec 32} (h : x &&& 0xFCFFFFFF = y &&& 0xFCFFFFFF) :
    decodeIdentifier x = decodeIdentifier y := by
  have hprio : x.extractLsb' 26 3 = y.extractLsb' 26 3 := extractLsb'_eq_of_and_eq (by decide) h
  have hpgn : x.extractLsb' 8 16 = y.extractLsb' 8 16 := extractLsb'_eq_of_and_eq (by decide) h
  have hsa : x.extractLsb' 0 8 = y.extractLsb' 0 8 := extractLsb'_eq_of_and_eq (by decide) h
  rw [decodeIdentifier, decodeIdentifier, hprio, hpgn, hsa]

/-- ID_DECODE and FRAME read of the identifier only its validity and its decoded fields. -/
theorem effectOf_with_fid {i : Instr} (hi : i = .idDecode ∨ i = .frame) {p : Ports} {fid : BitVec 32}
    (hvalid : idValid fid = idValid p.fid) (hfields : decodeIdentifier fid = decodeIdentifier p.fid) (b : Block) :
    effectOf i b { p with fid := fid } = effectOf i b p := by
  obtain rfl | rfl := hi
  · simp only [effectOf, idDecodeEffect, hvalid, hfields]
  · simp only [effectOf, frameEffect, frameResponse, hvalid, hfields]

/-- Settles O29: bits 25 and 24 are in none of the slices that the validity check and the decoder read. -/
theorem identifierBits25And24AreNotRead : Obligations.IdentifierBits25And24AreNotRead :=
  fun i s _ hi hagree =>
    ⟨_, _, answers_effect i s,
      answers_iff.2 (effectOf_with_fid hi (idValid_of_agree hagree) (decodeIdentifier_of_agree hagree) s.block)⟩

end Sys2Proof.Machine
end

section
/-! Signal (41_signal.md): the valid definitions, the raw field, the linear converter, and EXTRACT case by case. -/

namespace Sys2Proof.Machine

/-! ### The valid definitions (R90) -/

/-- R90 on the two fields that it judges: no other field of a definition matters. -/
theorem validDef_iff (k w : Byte) : validDef k w = true ↔ k.toNat ≤ 7 ∧ 1 ≤ w.toNat ∧ w.toNat ≤ 8 :=
  valid_iff { SignalDefinition.reset with byteOffset := k, bitWidth := w }

/-- The valid pairs of byte offset and bit width (R90). -/
def validPairs : List (Nat × Nat) := (List.range 8).product (List.range' 1 8)

theorem mem_validPairs_iff (k w : Nat) : (k, w) ∈ validPairs ↔ k ≤ 7 ∧ 1 ≤ w ∧ w ≤ 8 := by
  rw [validPairs, List.pair_mem_product, List.mem_range, List.mem_range'_1]
  omega

theorem validPairs_nodup : validPairs.Nodup := List.nodup_range.product List.nodup_range'

/-- Settles O30: the judgement is that of the machine's functions, and the valid pairs are listed (64 of them, log 12). -/
theorem definitionValidity : Obligations.DefinitionValidity := by
  refine ⟨fun k w => ⟨cerrRange_iff k w, cerrWidth_iff w, ?_, ?_⟩, validPairs, rfl, validPairs_nodup, mem_validPairs_iff,
    fun k w => ?_⟩
  · rw [validDef, Bool.and_eq_true, Bool.not_eq_true', Bool.not_eq_true']
  · rw [validDef_iff]
    omega
  · rw [validDef_iff, mem_validPairs_iff]

/-! ### The raw field (R91, R92) -/

/-- The slice of R91 is the payload byte without its 8 - w least significant bits. -/
theorem slice_eq_byte_shift (x : Nat) {k w : Nat} (hk : k ≤ 7) (hw : w ≤ 8) :
    x / 2 ^ (64 - 8 * k - w) % 2 ^ w = x / 2 ^ (56 - 8 * k) % 256 / 2 ^ (8 - w) := by
  have hlow : 64 - 8 * k - w = (56 - 8 * k) + (8 - w) := by omega
  have hbyte : 256 = 2 ^ (8 - w) * 2 ^ w := by
    rw [← pow_add, Nat.sub_add_cancel hw]
    rfl
  rw [hbyte, Nat.mod_mul_right_div_self, Nat.div_div_eq_div_mul, ← pow_add, hlow]

/-- Bit by bit the raw field is the payload string from character 8k on, the first character most significant (R40). -/
theorem extractRaw_getLsbD (fdata : Word64) {k w j : Nat} (hk : k ≤ 7) (hw : w ≤ 8) (hj : j < w) :
    (extractRaw fdata k w).getLsbD (w - 1 - j) = payloadChar fdata (8 * k + j) := by
  have hbyte : w - 1 - j < 8 := by omega
  have hfield : w - 1 - j < w := by omega
  have hpos : 64 - 8 * k - w + (w - 1 - j) = 63 - (8 * k + j) := by omega
  simp [extractRaw, payloadChar, hbyte, hfield, hpos]

/-- Settles O31: the slice as a number, as a shift of the byte, and bit by bit; a number modulo 2^w is at most 2^w - 1. -/
theorem rawFieldIsTheLeadingBitsOfTheByte : Obligations.RawFieldIsTheLeadingBitsOfTheByte := by
  intro fdata k w hk _ hw
  have hraw := extractRaw_toNat fdata k w hw
  refine ⟨hraw, hraw.trans (slice_eq_byte_shift _ hk hw), fun _ hj => extractRaw_getLsbD fdata hk hw hj, ?_⟩
  rw [hraw]
  exact Nat.le_sub_one_of_lt (Nat.mod_lt _ (Nat.two_pow_pos w))

/-! ### The converter (R93, R94, R95) -/

/-- A 64-bit pattern whose signed value fits in 40 bits is filled with its sign from bit 39 on (R95): a negative one through its
complement, which is small. -/
theorem getLsbD_eq_msb_of_toInt_bounds {x : Word64} (hlo : -2 ^ 39 ≤ x.toInt) (hhi : x.toInt < 2 ^ 39) {j : Nat} (hj : 39 ≤ j)
    (hj64 : j < 64) : x.getLsbD j = x.msb := by
  obtain ⟨i, rfl⟩ := Nat.exists_eq_add_of_le hj
  have hsmall (y : Word64) (hy : y.toNat < 2 ^ 39) : y.getLsbD (39 + i) = false :=
    (BitVec.toNat_lt_iff_getLsbD_eq_false 39 (by decide)).1 hy i
  cases hmsb : x.msb with
  | false =>
    rw [BitVec.toInt_eq_toNat_of_msb hmsb] at hhi
    exact hsmall x (by omega)
  | true =>
    have hcompl : (~~~x).toNat < 2 ^ 39 := by
      rw [BitVec.toInt_eq_msb_cond, if_pos hmsb] at hlo
      rw [BitVec.toNat_not]
      omega
    simpa [BitVec.getLsbD_not, hj64] using hsmall _ hcompl

/-- R94 read with 16 fractional bits. -/
theorem convert_real (raw : Byte) (scale offset : BitVec 32) :
    ((convert raw scale offset).toInt : Rat) / 2 ^ 16 =
      (raw.toNat : Rat) * ((scale.toInt : Rat) / 2 ^ 16) + (offset.toInt : Rat) / 2 ^ 16 := by
  rw [convert_toInt]
  push_cast
  ring

/-- Settles O32: the value and its bounds are those of the integer formula, from which the sign bits and the real numbers follow. -/
theorem conversionIsExact : Obligations.ConversionIsExact := by
  refine ⟨fun raw scale offset => ?_, by decide, by decide⟩
  obtain ⟨hlo, hhi⟩ := convert_bounds raw scale offset
  rw [← convert_toInt] at hlo hhi
  have hlt : (convert raw scale offset).toInt < 2 ^ 39 := hhi.trans_lt (by decide)
  exact ⟨convert_toInt .., hlo, hhi, fun _ hj hj64 => getLsbD_eq_msb_of_toInt_bounds hlo hlt hj hj64, convert_real ..⟩

/-! ### EXTRACT (R97) -/

/-- An invalid staged definition is reported whatever the payload's length is. -/
theorem extractEffect_of_not_valid {b : Block} (h : ¬ DefValid b.cfg) (p : Ports) :
    extractEffect b p = (b, { status := .outOfRange }) := by
  rw [extractEffect, extractSignal_invalid p.fdata b.cfg h]

/-- The raw field and its conversion are the signal of a valid definition (R96). -/
theorem signalOf_extractRaw_convert (fdata : Word64) {d : SignalDefinition} (h : DefValid d) :
    SignalOf fdata d (extractRaw fdata d.byteOffset.toNat d.bitWidth.toNat)
      (convert (extractRaw fdata d.byteOffset.toNat d.bitWidth.toNat) d.scale d.offset) :=
  have ⟨_, _, hw⟩ := h
  ⟨extractRaw_toNat fdata _ _ hw, convert_toInt ..⟩

/-- Settles O33: the word is the encoding of EXTRACT; the three cases are those of the effect, with the signal of the staged
definition. -/
theorem extractUsesTheStagedDefinition : Obligations.ExtractUsesTheStagedDefinition := by
  refine ⟨decode_encode (i := .extract) rfl, fun s => ⟨fun hinvalid => ?_, fun hd hlen => ?_, fun hd hlen => ?_⟩⟩
  · exact answers_iff.2 (extractEffect_of_not_valid hinvalid s.ports)
  · exact answers_iff.2 (extractEffect_of_malformed hd hlen)
  · exact ⟨_, _, signalOf_extractRaw_convert s.ports.fdata hd, answers_iff.2 (extractEffect_of_valid hd hlen rfl)⟩

end Sys2Proof.Machine
end

section
/-! Frames (42_frame.md): the response case by case, the position each frame takes, and what the host builds from the response. -/

namespace Sys2Proof.Machine

/-! ### The response of an open run, case by case (R114 to R117, in the order of R158) -/

/-- R117's condition on a frame of an open run: a valid identifier, 64 payload bits, and the target PGN. -/
def FrameMatches (act : SignalDefinition) (p : Ports) : Prop :=
  p.fid.toNat < 2 ^ 29 ∧ p.flen.toNat = 64 ∧ p.fid.toNat / 2 ^ 8 % 2 ^ 16 = act.pgn.toNat

/-- The PGN comparison of R116 on numbers. -/
theorem decodeIdentifier_pgn_eq_iff (fid : BitVec 32) (pgn : BitVec 16) :
    (decodeIdentifier fid).pgn = pgn ↔ fid.toNat / 2 ^ 8 % 2 ^ 16 = pgn.toNat := by
  rw [decodeIdentifier_eq, ← BitVec.toNat_inj, BitVec.toNat_ofNat, Nat.mod_mod]

theorem decodeIdentifier_sa_toNat (fid : BitVec 32) : (decodeIdentifier fid).sa.toNat = fid.toNat % 2 ^ 8 := by
  rw [decodeIdentifier_eq, BitVec.toNat_ofNat, Nat.mod_mod]

/-- The response to a frame whose identifier is valid, without a signal: tag, position and the decoded fields (R115, R116). -/
def identifiedResponse (status : Status) (i : BitVec 32) (p : Ports) : Response :=
  { status := status, tag := p.ftag, index := i, prio := (decodeIdentifier p.fid).prio, pgn := (decodeIdentifier p.fid).pgn,
    sa := (decodeIdentifier p.fid).sa }

/-- The response to a matching frame: it also carries the signal of the active definition (R117). -/
def decodedResponse (act : SignalDefinition) (i : BitVec 32) (p : Ports) : Response :=
  { status := .ok, tag := p.ftag, index := i, prio := (decodeIdentifier p.fid).prio, pgn := act.pgn,
    sa := (decodeIdentifier p.fid).sa, raw := (activeSignal p.fdata act).1, phys := (activeSignal p.fdata act).2 }

section frameResponse
variable {act : SignalDefinition} {p : Ports}

theorem frameResponse_of_invalid (h : 2 ^ 29 ≤ p.fid.toNat) (i : BitVec 32) :
    frameResponse act i p = { status := .invalidIdentifier, tag := p.ftag, index := i } := by
  simp [frameResponse, (idValid_eq_false_iff p.fid).2 h]

theorem frameResponse_of_malformed (h : p.fid.toNat < 2 ^ 29) (hlen : p.flen.toNat ≠ 64) (i : BitVec 32) :
    frameResponse act i p = identifiedResponse .malformedPayload i p := by
  have hlen' : lengthOk p.flen = false := Bool.eq_false_iff.2 (mt (lengthOk_iff p.flen).1 hlen)
  simp [frameResponse, (idValid_iff p.fid).2 h, hlen', identifiedResponse]

theorem frameResponse_of_other_pgn (h : p.fid.toNat < 2 ^ 29) (hlen : p.flen.toNat = 64)
    (hpgn : p.fid.toNat / 2 ^ 8 % 2 ^ 16 ≠ act.pgn.toNat) (i : BitVec 32) :
    frameResponse act i p = identifiedResponse .noMatch i p := by
  have hpgn' : (decodeIdentifier p.fid).pgn ≠ act.pgn := mt (decodeIdentifier_pgn_eq_iff p.fid act.pgn).1 hpgn
  simp [frameResponse, (idValid_iff p.fid).2 h, (lengthOk_iff p.flen).2 hlen, hpgn', identifiedResponse]

theorem frameResponse_of_matches (h : FrameMatches act p) (i : BitVec 32) :
    frameResponse act i p = decodedResponse act i p := by
  obtain ⟨hvalid, hlen, hpgn⟩ := h
  simp [frameResponse, (idValid_iff p.fid).2 hvalid, (lengthOk_iff p.flen).2 hlen,
    (decodeIdentifier_pgn_eq_iff p.fid act.pgn).2 hpgn, decodedResponse]

end frameResponse

/-- Everything the response of an open run can be, with the condition for each case. -/
theorem frameResponse_cases (act : SignalDefinition) (i : BitVec 32) (p : Ports) :
    (2 ^ 29 ≤ p.fid.toNat ∧ frameResponse act i p = { status := .invalidIdentifier, tag := p.ftag, index := i }) ∨
    ((p.fid.toNat < 2 ^ 29 ∧ p.flen.toNat ≠ 64) ∧ frameResponse act i p = identifiedResponse .malformedPayload i p) ∨
    ((p.fid.toNat < 2 ^ 29 ∧ p.flen.toNat = 64 ∧ p.fid.toNat / 2 ^ 8 % 2 ^ 16 ≠ act.pgn.toNat) ∧
      frameResponse act i p = identifiedResponse .noMatch i p) ∨
    (FrameMatches act p ∧ frameResponse act i p = decodedResponse act i p) := by
  obtain hinvalid | hvalid := le_or_gt (2 ^ 29) p.fid.toNat
  · exact .inl ⟨hinvalid, frameResponse_of_invalid hinvalid i⟩
  by_cases hlen : p.flen.toNat = 64
  · by_cases hpgn : p.fid.toNat / 2 ^ 8 % 2 ^ 16 = act.pgn.toNat
    · exact .inr (.inr (.inr ⟨⟨hvalid, hlen, hpgn⟩, frameResponse_of_matches ⟨hvalid, hlen, hpgn⟩ i⟩))
    · exact .inr (.inr (.inl ⟨⟨hvalid, hlen, hpgn⟩, frameResponse_of_other_pgn hvalid hlen hpgn i⟩))
  · exact .inr (.inl ⟨⟨hvalid, hlen⟩, frameResponse_of_malformed hvalid hlen i⟩)

section frameResponse
variable (act : SignalDefinition) (i : BitVec 32) (p : Ports)

@[simp] theorem frameResponse_tag : (frameResponse act i p).tag = p.ftag := by
  obtain ⟨-, h⟩ | ⟨-, h⟩ | ⟨-, h⟩ | ⟨-, h⟩ := frameResponse_cases act i p <;> exact congrArg Response.tag h

@[simp] theorem frameResponse_index : (frameResponse act i p).index = i := by
  obtain ⟨-, h⟩ | ⟨-, h⟩ | ⟨-, h⟩ | ⟨-, h⟩ := frameResponse_cases act i p <;> exact congrArg Response.index h

/-- The four statuses of a frame of an open run (R114 to R117). -/
theorem frameResponse_status_mem :
    (frameResponse act i p).status ∈ [Status.invalidIdentifier, .malformedPayload, .noMatch, .ok] := by
  obtain ⟨-, h⟩ | ⟨-, h⟩ | ⟨-, h⟩ | ⟨-, h⟩ := frameResponse_cases act i p <;> simp [h, identifiedResponse, decodedResponse]

theorem frameResponse_ok_iff : (frameResponse act i p).status = .ok ↔ FrameMatches act p := by
  obtain ⟨hinvalid, h⟩ | ⟨⟨-, hlen⟩, h⟩ | ⟨⟨-, -, hpgn⟩, h⟩ | ⟨hmatches, h⟩ := frameResponse_cases act i p
  · rw [h]; exact iff_of_false nofun fun ⟨hvalid, _, _⟩ => Nat.not_lt.2 hinvalid hvalid
  · rw [h]; exact iff_of_false nofun fun ⟨_, hlen', _⟩ => hlen hlen'
  · rw [h]; exact iff_of_false nofun fun ⟨_, _, hpgn'⟩ => hpgn hpgn'
  · rw [h]; exact iff_of_true rfl hmatches

/-- The two statuses that the host collects as errors (R118). -/
theorem frameResponse_error_iff :
    ((frameResponse act i p).status = .invalidIdentifier ∨ (frameResponse act i p).status = .malformedPayload) ↔
      (2 ^ 29 ≤ p.fid.toNat ∨ p.flen.toNat ≠ 64) := by
  obtain ⟨hinvalid, h⟩ | ⟨⟨-, hlen⟩, h⟩ | ⟨⟨hvalid, hlen, -⟩, h⟩ | ⟨⟨hvalid, hlen, -⟩, h⟩ := frameResponse_cases act i p
  · rw [h]; exact iff_of_true (.inl rfl) (.inl hinvalid)
  · rw [h]; exact iff_of_true (.inr rfl) (.inr hlen)
  · rw [h]; exact iff_of_false (not_or.2 ⟨nofun, nofun⟩) (not_or.2 ⟨Nat.not_le.2 hvalid, not_not_intro hlen⟩)
  · rw [h]; exact iff_of_false (not_or.2 ⟨nofun, nofun⟩) (not_or.2 ⟨Nat.not_le.2 hvalid, not_not_intro hlen⟩)

end frameResponse

/-! ### The signal of a matching frame (R91 to R96, R117) -/

/-- On a valid active definition the extractor does not fail, so the signal is its own and never the free value. -/
theorem signalOf_activeSignal (fdata : Word64) {d : SignalDefinition} (h : DefValid d) :
    SignalOf fdata d (activeSignal fdata d).1 (activeSignal fdata d).2 := by
  rw [activeSignal, extractSignal_of_valid fdata h]
  exact signalOf_extractRaw_convert fdata h

theorem SignalOf.raw_le {fdata : Word64} {d : SignalDefinition} {raw : Byte} {phys : Word64} (h : SignalOf fdata d raw phys) :
    raw.toNat ≤ 2 ^ d.bitWidth.toNat - 1 := by
  obtain ⟨hraw, -⟩ := h
  rw [hraw]
  exact Nat.le_sub_one_of_lt (Nat.mod_lt _ (Nat.two_pow_pos _))

/-- R95's range. -/
theorem SignalOf.phys_bounds {fdata : Word64} {d : SignalDefinition} {raw : Byte} {phys : Word64} (h : SignalOf fdata d raw phys) :
    -2 ^ 39 ≤ phys.toInt ∧ phys.toInt ≤ 2 ^ 39 - 256 := by
  obtain ⟨-, hphys⟩ := h
  rw [hphys]
  exact convert_bounds raw d.scale d.offset

theorem frameResponse_signal_of_ok {act : SignalDefinition} (hd : DefValid act) {i : BitVec 32} {p : Ports}
    (hok : (frameResponse act i p).status = .ok) :
    (frameResponse act i p).pgn = act.pgn ∧
      SignalOf p.fdata act (frameResponse act i p).raw (frameResponse act i p).phys := by
  rw [frameResponse_of_matches ((frameResponse_ok_iff act i p).1 hok)]
  exact ⟨rfl, signalOf_activeSignal p.fdata hd⟩

/-- A response other than OK leaves the signal's fields 0 (R66, R67). -/
theorem frameResponse_no_signal_of_not_ok {act : SignalDefinition} {i : BitVec 32} {p : Ports}
    (hne : (frameResponse act i p).status ≠ .ok) : (frameResponse act i p).raw = 0 ∧ (frameResponse act i p).phys = 0 := by
  obtain ⟨-, h⟩ | ⟨-, h⟩ | ⟨-, h⟩ | ⟨hmatches, -⟩ := frameResponse_cases act i p
  · rw [h]; exact ⟨rfl, rfl⟩
  · rw [h]; exact ⟨rfl, rfl⟩
  · rw [h]; exact ⟨rfl, rfl⟩
  · exact absurd ((frameResponse_ok_iff act i p).2 hmatches) hne

/-! ### FRAME as an answer of the machine (R111 to R117) -/

/-- Settles O35: the closed case of the effect. -/
theorem frameWithoutARunIsNotRunning : Obligations.FrameWithoutARunIsNotRunning :=
  fun s hrun => answers_iff.2 (frameEffect_of_not_run hrun s.ports)

/-- Whatever the outcome, a frame of an open run is answered at the position `index`, which advances (R112). -/
theorem answers_frame_of_run {s : State} (hrun : s.block.run = true) :
    Answers .frame s { s.block with index := nextIndex s.block.index } (frameResponse s.block.act s.block.index s.ports) := by
  rw [answers_iff, effectOf, frameEffect_of_run hrun, index_succ]

/-- Settles O36: the three rejecting cases of the response, with R80's formulas for the fields. -/
theorem frameErrorsAndMismatches : Obligations.FrameErrorsAndMismatches := by
  intro s hrun
  have hanswers := answers_frame_of_run hrun
  refine ⟨fun hinvalid => ?_, fun hvalid hlen => ?_, fun hvalid hlen hpgn => ?_⟩
  · rwa [frameResponse_of_invalid hinvalid] at hanswers
  · rwa [frameResponse_of_malformed hvalid hlen, identifiedResponse, decodeIdentifier_eq] at hanswers
  · rwa [frameResponse_of_other_pgn hvalid hlen hpgn, identifiedResponse, decodeIdentifier_eq] at hanswers

/-- Settles O37: the accepting case of the response, with the signal of a valid active definition. -/
theorem matchingFrameIsDecoded : Obligations.MatchingFrameIsDecoded := by
  intro s hrun hd hvalid hlen hpgn
  have hanswers := answers_frame_of_run hrun
  rw [frameResponse_of_matches ⟨hvalid, hlen, hpgn⟩, decodedResponse, decodeIdentifier_eq] at hanswers
  exact ⟨_, _, signalOf_activeSignal s.ports.fdata hd, hanswers⟩

/-! ### Positions (R112, R175) -/

/-- START restarts the positions, whether it opens a run or fails (R133). -/
theorem startEffect_index (b : Block) (p : Ports) : (startEffect b p).1.index = 0 := by
  by_cases hv : DefValid b.cfg
  · rw [startEffect_of_valid hv]
  · rw [startEffect_of_not_valid hv]

/-- Settles O39: the position is the index before the frame, and START leaves index 0. -/
theorem everyFrameTakesOnePosition : Obligations.EveryFrameTakesOnePosition := by
  refine ⟨fun s hrun => ⟨_, answers_frame_of_run hrun, frameResponse_index ..⟩, by decide, fun s t p hstart hrun => ?_⟩
  have hindex : t.block.index = 0 := by
    rw [exec_eq_next.1 hstart]
    exact startEffect_index s.block s.ports
  refine ⟨_, _, answers_frame_of_run (s := { t with ports := p }) hrun, ?_, ?_⟩
  · rw [frameResponse_index, hindex]
  · simp only [hindex]
    decide

/-! ### The signal in the response (R27, R66, R92, R95, R177) -/

/-- A FRAME at once after a START of a valid staged definition is judged against that definition, at position 0 (R177). -/
theorem frameEffect_after_start {b : Block} (h : DefValid b.cfg) (p q : Ports) :
    (frameEffect (startEffect b p).1 q).2 = frameResponse b.cfg 0 q := by
  rw [startEffect_of_valid h, frameEffect_of_run rfl]

/-- Settles O38: the invariant makes the active definition of an open run valid, and START copies a valid one. -/
theorem okFrameResponsesCarryTheRunsSignal : Obligations.OkFrameResponsesCarryTheRunsSignal := by
  refine ⟨fun s hinv => ?_, fun s p hd => ?_⟩
  · refine ⟨_, _, answers_effect .frame s, effectOf_keeps_inv .frame hinv s.ports, ?_⟩
    rw [effectOf]
    cases hrun : s.block.run with
    | false =>
      rw [frameEffect_of_not_run hrun]
      exact ⟨nofun, fun _ => ⟨rfl, rfl⟩⟩
    | true =>
      obtain ⟨hact, -, -⟩ := hinv
      rw [frameEffect_of_run hrun]
      refine ⟨fun hok => ?_, frameResponse_no_signal_of_not_ok⟩
      obtain ⟨-, hsignal⟩ := frameResponse_signal_of_ok (hact hrun) hok
      exact ⟨rfl, hsignal, hsignal.raw_le, hsignal.phys_bounds⟩
  · refine ⟨_, exec_eq_next.2 rfl, _, _, answers_effect .frame _, ?_⟩
    rw [effectOf, State.answer_block, effectOf, frameEffect_after_start hd]
    exact frameResponse_signal_of_ok hd

/-! ### Tag and statuses (R119, R120) -/

@[simp] theorem frameEffect_tag (b : Block) (p : Ports) : (frameEffect b p).2.tag = p.ftag := by
  cases hrun : b.run with
  | false => rw [frameEffect_of_not_run hrun]
  | true => rw [frameEffect_of_run hrun, frameResponse_tag]

/-- The five statuses of FRAME (R113 to R117). -/
theorem frameEffect_status_mem (b : Block) (p : Ports) :
    (frameEffect b p).2.status ∈ [Status.notRunning, .invalidIdentifier, .malformedPayload, .noMatch, .ok] := by
  cases hrun : b.run with
  | false => simp [frameEffect_of_not_run hrun]
  | true =>
    rw [frameEffect_of_run hrun]
    exact List.mem_cons_of_mem _ (frameResponse_status_mem ..)

/-- Settles O40: OUT_OF_RANGE and ILLEGAL_COMMAND are not among the five statuses, and the extractor fails on no valid definition. -/
theorem frameEchoesTheTagAndIsNeverOutOfRange : Obligations.FrameEchoesTheTagAndIsNeverOutOfRange := by
  intro s
  refine ⟨⟨_, _, answers_effect .frame s, frameEffect_tag s.block s.ports, ?_, ?_⟩, fun ⟨hact, _, _⟩ hrun => ?_⟩
  · exact ne_of_mem_of_not_mem (frameEffect_status_mem s.block s.ports) (by decide)
  · exact ne_of_mem_of_not_mem (frameEffect_status_mem s.block s.ports) (by decide)
  · rw [extractSignal_of_valid s.ports.fdata (hact hrun)]
    exact Option.some_ne_none _

/-! ### Independence (R121) -/

/-- Of the block FRAME reads run, index and act, and it writes the index. -/
theorem frameEffect_of_agree {b c : Block} (hrun : b.run = c.run) (hindex : b.index = c.index) (hact : b.act = c.act)
    (p : Ports) :
    ∃ i r, frameEffect b p = ({ b with index := i }, r) ∧ frameEffect c p = ({ c with index := i }, r) := by
  obtain hc | hc := c.run.eq_false_or_eq_true
  · refine ⟨c.index + 1, _, ?_, frameEffect_of_run hc p⟩
    rw [frameEffect_of_run (hrun.trans hc), hindex, hact]
  · refine ⟨c.index, _, ?_, frameEffect_of_not_run hc p⟩
    rw [frameEffect_of_not_run (hrun.trans hc), ← hindex]

/-- Settles O41: `frameEffect_of_agree` on the ports of one state, which the other's replace since all four frame ports agree. -/
theorem framesAreIndependent : Obligations.FramesAreIndependent := by
  intro s₁ s₂ hrun hindex hact hfid hfdata hflen hftag
  have hports : ListedPortsAgree .frame s₁.ports s₂.ports := ⟨fun _ => hfid, fun _ => ⟨hfdata, hflen⟩, fun _ => hftag, nofun⟩
  obtain ⟨i, r, h₁, h₂⟩ := frameEffect_of_agree hrun hindex hact s₁.ports
  exact ⟨r, i, answers_iff.2 h₁, answers_iff.2 ((effectOf_of_listedPortsAgree hports s₂.block).symm.trans h₂)⟩

/-! ### Records and errors of the host (R118) -/

theorem frameRecord_eq_some_iff {r : Response} {d : DecodedRecord} :
    frameRecord r = some d ↔
      r.status = .ok ∧ d = { timestamp := r.tag, pgn := r.pgn, physicalValue := realOfPhys r.phys, sourceAddress := r.sa } := by
  unfold frameRecord
  split
  next h => simp [h, eq_comm]
  next hne => exact iff_of_false nofun fun ⟨hok, _⟩ => hne hok

theorem frameError_eq_some_iff {r : Response} {e : FrameError} :
    frameError r = some e ↔
      (r.status = .invalidIdentifier ∨ r.status = .malformedPayload) ∧ e = { error := r.status, position := r.index } := by
  unfold frameError
  split
  next h => simp [h, eq_comm]
  next h => simp [h, eq_comm]
  next hinvalid hmalformed => exact iff_of_false nofun fun ⟨hstatus, _⟩ => hstatus.elim hinvalid hmalformed

/-- Settles O42: with no run open the host builds nothing; of an open run it builds from the cases of the response. -/
theorem recordsAndErrorsFollowTheFrame : Obligations.RecordsAndErrorsFollowTheFrame := by
  intro s b r hanswers
  have hr : (frameEffect s.block s.ports).2 = r := congrArg Prod.snd (answers_iff.1 hanswers)
  simp only [frameRecord_eq_some_iff, frameError_eq_some_iff, exists_and_left, exists_eq, and_true]
  cases hrun : s.block.run with
  | false =>
    rw [frameEffect_of_not_run hrun] at hr
    simp [← hr]
  | true =>
    rw [frameEffect_of_run hrun] at hr
    subst hr
    simp only [true_and]
    refine ⟨frameResponse_ok_iff .., frameResponse_error_iff .., ?_, ?_⟩
    · rintro d ⟨hok, rfl⟩
      rw [frameResponse_of_matches ((frameResponse_ok_iff ..).1 hok)]
      exact ⟨rfl, rfl, decodeIdentifier_sa_toNat s.ports.fid, rfl⟩
    · rintro e ⟨-, rfl⟩
      exact ⟨frameResponse_index .., rfl⟩

end Sys2Proof.Machine
end

section
/-! Control (43_control.md): the staged registers written and read, START, STOP, and the independence of runs. -/

namespace Sys2Proof.Machine

/-! ### Command words with a register operand (R60, R64) -/

/-- The three fields of a word that is put together from an opcode and a register number (R60). -/
theorem fields_of_opc_reg {opc n : Nat} (hopc : opc < 256) (hn : n < 256) :
    (BitVec.ofNat 32 (opc * 0x1000000 + n * 0x10000)).toNat % 2 ^ 16 = 0 ∧
      (BitVec.ofNat 32 (opc * 0x1000000 + n * 0x10000)).toNat / 2 ^ 24 = opc ∧
      (BitVec.ofNat 32 (opc * 0x1000000 + n * 0x10000)).toNat / 2 ^ 16 % 256 = n := by
  have hlt : opc * 0x1000000 + n * 0x10000 < 2 ^ 32 := by omega
  rw [BitVec.toNat_ofNat, Nat.mod_eq_of_lt hlt]
  omega

theorem decode_write_word_iff {n : Nat} (hn : n < 256) (reg : Register) :
    decode (BitVec.ofNat 32 (0x01000000 + n * 0x10000)) = .ok (.cfgWrite reg) ↔ n ≤ 5 ∧ reg.number.toNat = n := by
  obtain ⟨hmbz, hopc, hreg⟩ := fields_of_opc_reg (opc := 1) (by decide) hn
  rw [decode_eq_cfgWrite_iff, hmbz, hopc, hreg]
  simp

theorem decode_read_word_iff {n : Nat} (hn : n < 256) (reg : Register) :
    decode (BitVec.ofNat 32 (0x02000000 + n * 0x10000)) = .ok (.cfgRead reg) ↔ reg.number.toNat = n := by
  obtain ⟨hmbz, hopc, hreg⟩ := fields_of_opc_reg (opc := 2) (by decide) hn
  rw [decode_eq_cfgRead_iff, hmbz, hopc, hreg, ← Register.exists_number_iff]
  simp only [true_and]
  exact and_iff_right_of_imp fun h => ⟨reg, h⟩

/-- R64 (d). -/
theorem illegalWord_write_word {n : Nat} (hn : n < 256) (h5 : 5 < n) :
    IllegalWord (BitVec.ofNat 32 (0x01000000 + n * 0x10000)) := by
  obtain ⟨-, hopc, hreg⟩ := fields_of_opc_reg (opc := 1) (by decide) hn
  exact .inr (.inr (.inr (.inl ⟨hopc, hreg.symm ▸ h5⟩)))

/-- R64 (e). -/
theorem illegalWord_read_word {n : Nat} (hn : n < 256) (h5 : 5 < n) (h10 : n ≠ 0x10) (h11 : n ≠ 0x11) :
    IllegalWord (BitVec.ofNat 32 (0x02000000 + n * 0x10000)) := by
  obtain ⟨-, hopc, hreg⟩ := fields_of_opc_reg (opc := 2) (by decide) hn
  exact .inr (.inr (.inr (.inr ⟨hopc, hreg.symm ▸ ⟨h5, h10, h11⟩⟩)))

/-! ### CFG_WRITE (R130, R131, R137) -/

/-- The field bits of a written value (R131). -/
theorem extractLsb'_zero_toNat (x : Word64) (n : Nat) : (x.extractLsb' 0 n).toNat = x.toNat % 2 ^ n := by
  rw [BitVec.extractLsb'_toNat, Nat.shiftRight_zero]

theorem extractLsb'_zero_eq_ofNat (x : Word64) (n : Nat) : x.extractLsb' 0 n = BitVec.ofNat n (x.toNat % 2 ^ n) := by
  rw [← extractLsb'_zero_toNat, BitVec.ofNat_toNat, BitVec.setWidth_eq]

theorem answers_cfgWrite_of_writable {reg : Register} (h : reg.writable = true) (s : State) :
    Answers (.cfgWrite reg) s { s.block with cfg := writeRegister reg s.ports.wdata s.block.cfg } { status := .ok } := by
  rw [answers_iff, effectOf, cfgWriteEffect_eq, h]
  rfl

/-- A read-only register is not written (R137). -/
theorem writeRegister_of_not_writable {reg : Register} (h : reg.writable = false) (x : Word64) (d : SignalDefinition) :
    writeRegister reg x d = d := by
  cases reg with
  | status | frameCount => rfl
  | _ => cases h

/-- Settles O20: a write to a writable register replaces its field by the low bits of wdata; the words are read off their fields. -/
theorem cfgWriteStoresTheFieldBits : Obligations.CfgWriteStoresTheFieldBits := by
  refine ⟨fun s => ?_, fun n hn => ⟨decode_write_word_iff hn, fun h5 => (illegalWord_iff _).1 (illegalWord_write_word hn h5)⟩⟩
  have hunit : BitVec.ofNat 64 s.ports.wdata.toNat = s.ports.wdata.extractLsb' 0 64 := by
    rw [extractLsb'_zero_eq_ofNat, Nat.mod_eq_of_lt s.ports.wdata.isLt]
  simp only [← extractLsb'_zero_eq_ofNat, hunit]
  exact ⟨answers_cfgWrite_of_writable (reg := .cfgPgn) rfl s, answers_cfgWrite_of_writable (reg := .cfgByteOffset) rfl s,
    answers_cfgWrite_of_writable (reg := .cfgBitWidth) rfl s, answers_cfgWrite_of_writable (reg := .cfgScale) rfl s,
    answers_cfgWrite_of_writable (reg := .cfgOffset) rfl s, answers_cfgWrite_of_writable (reg := .cfgUnit) rfl s⟩

/-- Settles O21: the write of a read-only register keeps the staged definition; the term is not well-formed, so no word decodes to
it. -/
theorem writesToReadOnlyRegistersAreIllegal : Obligations.WritesToReadOnlyRegistersAreIllegal := by
  refine fun s reg hro => ⟨?_, fun w hdec => ?_⟩
  · rw [answers_iff, effectOf, cfgWriteEffect_eq, writeRegister_of_not_writable hro, hro]
    rfl
  · obtain ⟨hwf, -⟩ := fields_of_decode hdec
    rw [Instr.wellFormed_cfgWrite, hro] at hwf
    cases hwf

/-! ### CFG_READ (R29, R132) -/

theorem answers_cfgRead (reg : Register) (s : State) :
    Answers (.cfgRead reg) s s.block { status := .ok, rdata := readRegister reg s.block } := answers_iff.2 rfl

/-- STATUS over the flags: each stands at its own power of two. -/
theorem statusWord_flags_toNat : ∀ run fatal cr cw : Bool,
    (flagBit cw <<< 3 ||| flagBit cr <<< 2 ||| flagBit fatal <<< 1 ||| flagBit run).toNat =
      8 * cw.toNat + 4 * cr.toNat + 2 * fatal.toNat + run.toNat := by
  decide

/-- R29's layout as arithmetic. -/
theorem statusWord_toNat (b : Block) :
    (statusWord b).toNat = 8 * b.cerrWidth.toNat + 4 * b.cerrRange.toNat + 2 * b.fatal.toNat + b.run.toNat :=
  statusWord_flags_toNat b.run b.fatal b.cerrRange b.cerrWidth

/-- Settles O22: zero-extension keeps a field's number, and STATUS is the sum of its flags; the words are read off their fields. -/
theorem cfgReadReturnsTheRegister : Obligations.CfgReadReturnsTheRegister := by
  refine ⟨fun s reg => ⟨_, answers_cfgRead reg s, ?_⟩, fun n hn => ⟨decode_read_word_iff hn,
    fun h5 h10 h11 => (illegalWord_iff _).1 (illegalWord_read_word hn h5 h10 h11)⟩⟩
  cases reg with
  | status => exact statusWord_toNat s.block
  | cfgUnit => rfl
  | _ => exact BitVec.toNat_setWidth_of_le (by decide)

/-! ### CFG_READ after CFG_WRITE (R131, R132, R177) -/

/-- The number of field bits of a writable register (R63); a read-only register has no field to write, and its value is not used. -/
def fieldWidth : Register → Nat
  | .cfgPgn => 16
  | .cfgByteOffset => 8
  | .cfgBitWidth => 8
  | .cfgScale => 32
  | .cfgOffset => 32
  | _ => 64

theorem readRegister_writeRegister_same {reg : Register} (h : reg.writable = true) (b : Block) (x : Word64) :
    (readRegister reg { b with cfg := writeRegister reg x b.cfg }).toNat = x.toNat % 2 ^ fieldWidth reg := by
  cases reg with
  | status | frameCount => cases h
  | cfgUnit => exact extractLsb'_zero_toNat x 64
  | _ => exact (BitVec.toNat_setWidth_of_le (by decide)).trans (extractLsb'_zero_toNat x _)

/-- Every register shows an element of its own: no two share a field, and STATUS and FRAME_COUNT are not staged. -/
theorem readRegister_writeRegister_of_ne {reg other : Register} (h : other ≠ reg) (b : Block) (x : Word64) :
    readRegister other { b with cfg := writeRegister reg x b.cfg } = readRegister other b := by
  cases reg <;> cases other <;> try contradiction
  all_goals rfl

/-- Settles O23: the register read back is the written field, and every other register shows another element. -/
theorem readAfterWriteSeesTheFieldBits : Obligations.ReadAfterWriteSeesTheFieldBits := by
  refine fun s reg hwr => ⟨_, answers_cfgWrite_of_writable hwr s, ⟨_, answers_cfgRead reg _, ?_⟩, fun other hne =>
    ⟨_, answers_cfgRead other _, ?_⟩⟩
  · rw [readRegister_writeRegister_same hwr]
    cases reg <;> rfl
  · rw [readRegister_writeRegister_of_ne hne]
    exact answers_cfgRead other s

/-! ### START (R90, R133) -/

theorem cerrRange_eq_decide (k w : Byte) :
    cerrRange k w = decide (8 ≤ k.toNat ∨ 8 < k.toNat + (w.toNat + 7) / 8) := by
  rw [Bool.eq_iff_iff, cerrRange_iff, decide_eq_true_iff]

theorem cerrWidth_eq_decide (w : Byte) : cerrWidth w = decide (w.toNat = 0 ∨ 8 < w.toNat) := by
  rw [Bool.eq_iff_iff, cerrWidth_iff, decide_eq_true_iff]

/-- Settles O24: the two conditions are those the machine judges by, and the two outcomes are the cases of the effect. -/
theorem startOpensOrFailsTheRun : Obligations.StartOpensOrFailsTheRun := by
  refine ⟨decode_encode (i := .start) rfl, fun s => ?_⟩
  simp only [← cerrRange_eq_decide, ← cerrWidth_eq_decide, ← Bool.or_eq_true]
  refine ⟨fun hcerr => ?_, fun hcr hcw => ?_⟩
  · have hv : ¬ DefValid s.block.cfg := fun hv => by
      rw [(cerr_or_eq_false_iff s.block.cfg).2 hv] at hcerr
      cases hcerr
    exact answers_iff.2 (startEffect_of_not_valid hv s.ports)
  · have hv : DefValid s.block.cfg := (cerr_or_eq_false_iff s.block.cfg).1 (Bool.or_eq_false_iff.2 ⟨hcr, hcw⟩)
    exact answers_iff.2 (startEffect_of_valid hv s.ports)

/-- Settles O25: the two cases of the effect, split by the validity of the staged definition. -/
theorem startSucceedsExactlyOnValidDefinitions : Obligations.StartSucceedsExactlyOnValidDefinitions := by
  intro s
  by_cases hv : DefValid s.block.cfg
  · exact ⟨_, _, answers_iff.2 (startEffect_of_valid hv s.ports), iff_of_true rfl hv, iff_of_true rfl hv,
      iff_of_false nofun (not_not_intro hv)⟩
  · exact ⟨_, _, answers_iff.2 (startEffect_of_not_valid hv s.ports), iff_of_false nofun hv, iff_of_false nofun hv,
      iff_of_true rfl hv⟩

/-! ### STOP (R135) -/

/-- Settles O26: the effect writes RUN alone, which changes nothing where RUN is 0 already. -/
theorem stopClosesTheRun : Obligations.StopClosesTheRun := by
  refine ⟨decode_encode (i := .stop) rfl, fun s => ⟨answers_iff.2 rfl, fun hrun => answers_iff.2 ?_⟩⟩
  rw [effectOf, stopEffect, ← hrun]

/-! ### Runs are independent (R121, R134) -/

/-- After START on a valid staged definition nothing of the block but that definition is left (R133). -/
theorem startEffect_of_cfg_eq {b₁ b₂ : Block} (hcfg : b₁.cfg = b₂.cfg) (hv : DefValid b₁.cfg) (p : Ports) :
    startEffect b₁ p = startEffect b₂ p := by
  rw [startEffect_of_valid hv, startEffect_of_valid (hcfg ▸ hv), hcfg]

/-- The step that takes a START (R6, R133). -/
theorem step_start {c : Command} (hdec : decode c.word = .ok .start) (s : State) (evs : List HostEvent) :
    step { s with inbox := .command c :: evs } = .next
      { block := (startEffect s.block c.ports).1, ports := c.ports, inbox := evs,
        responses := s.responses ++ [(startEffect s.block c.ports).2] } := by
  rw [step_of_decode rfl hdec, exec_eq_next]
  rfl

/-- START and the events after it, alone: the end is a function of what START leaves of the block and answers. -/
theorem runSteps_start {c : Command} (hdec : decode c.word = .ok .start) (b : Block) (evs : List HostEvent) :
    ∃ (b' : Block) (p' : Ports) (rs : List Response), ∀ s : State, startEffect s.block c.ports = startEffect b c.ports →
      runSteps (evs.length + 1) { s with inbox := .command c :: evs }
        = .next { block := b', ports := p', inbox := [], responses := s.responses ++ rs } := by
  obtain ⟨b', p', rs, -, hrun⟩ := runSteps_events evs (startEffect b c.ports).1 c.ports
  refine ⟨b', p', (startEffect b c.ports).2 :: rs, fun s hs => ?_⟩
  have hevs := hrun [] (s.responses ++ [(startEffect b c.ports).2]) 0
  rw [List.append_nil, List.append_assoc] at hevs
  rw [runSteps_succ_next (step_start hdec s evs), hs]
  exact hevs

/-- Settles O44: START leaves both blocks the same and answers the same, and the events after it run alike from there. -/
theorem runsAreIndependentOfEarlierRuns : Obligations.RunsAreIndependentOfEarlierRuns := by
  intro s₁ s₂ c evs hdec hcfg hv
  obtain ⟨b, p, rs, hrun⟩ := runSteps_start hdec s₁.block evs
  exact ⟨b, p, rs, hrun s₁ rfl, hrun s₂ (startEffect_of_cfg_eq hcfg hv c.ports).symm⟩

end Sys2Proof.Machine
end

section
/-! Errors (60_exceptions.md): every command completes, and how FATAL is left. -/

namespace Sys2Proof.Machine

/-! ### Completion (R150, R161) -/

/-- A step answers a next state with nothing presented, at a reset, and at any command, legal or not. -/
theorem exists_step_next (s : State) : ∃ t, step s = .next t := by
  cases hin : s.inbox with
  | nil => exact ⟨_, step_nil hin⟩
  | cons e rest =>
    cases e with
    | reset => exact ⟨_, step_reset hin⟩
    | command c => exact ⟨_, (step_command hin).trans (perform_eq_next.2 rfl)⟩

/-- Settles O9: an operation answers with what its effect gives, and a step completes in each of its cases. -/
theorem everyCommandCompletes : Obligations.EveryCommandCompletes :=
  ⟨fun i s => ⟨_, _, answers_effect i s⟩, exists_step_next⟩

/-! ### FATAL (R154, R160) -/

/-- Every operation but START keeps FATAL, because only START writes it (R32). -/
theorem effectOf_fatal {i : Instr} (hi : i ≠ .start) (s : State) : (effectOf i s.block s.ports).1.fatal = s.block.fatal := by
  obtain ⟨-, -, -, -, hflags, -⟩ := eachElementHasItsWriters i s _ (answers_effect i s)
  exact (hflags hi).1

/-- Among the registers only STATUS shows FATAL (R29, R132). -/
theorem readRegister_with_fatal {reg : Register} (h : reg ≠ .status) (b : Block) (f : Bool) :
    readRegister reg { b with fatal := f } = readRegister reg b := by
  cases reg with
  | status => exact absurd rfl h
  | _ => rfl

/-- The commands that R160 lets work while FATAL = 1 do not read it: with another FATAL they give the same response, and keep it. -/
theorem effectOf_with_fatal {i : Instr}
    (hi : i = .idDecode ∨ i = .extract ∨ (∃ reg, i = .cfgWrite reg) ∨ (∃ reg, reg ≠ .status ∧ i = .cfgRead reg))
    (b : Block) (p : Ports) (f : Bool) :
    effectOf i { b with fatal := f } p = ({ (effectOf i b p).1 with fatal := f }, (effectOf i b p).2) := by
  obtain rfl | rfl | ⟨reg, rfl⟩ | ⟨reg, hreg, rfl⟩ := hi
  · exact Prod.ext (by simp [effectOf]) (idDecodeEffect_response _ _ p)
  · exact Prod.ext (by simp [effectOf]) (extractEffect_response rfl)
  · simp only [effectOf, cfgWriteEffect_eq]
  · simp only [effectOf, cfgReadEffect, readRegister_with_fatal hreg]

/-- Settles O27: under the invariant FATAL = 1 means that no run is open, which decides FRAME; START judges afresh, and a reset
gives FATAL its value 0. -/
theorem fatalIsLeftOnlyByStartOrReset : Obligations.FatalIsLeftOnlyByStartOrReset := by
  intro s hinv hfatal
  obtain ⟨-, hexcl, -⟩ := hinv
  have hrun : s.block.run = false := Bool.eq_false_iff.2 fun hrun => hexcl ⟨hrun, hfatal⟩
  refine ⟨frameWithoutARunIsNotRunning s hrun, fun i hi => ?keeps, ?start, fun rest => ?reset, fun i hi => ?works⟩
  case keeps => exact ⟨_, _, answers_effect i s, (effectOf_fatal hi s).trans hfatal⟩
  case start =>
    obtain ⟨b, r, hanswers, -, -, hfails⟩ := startSucceedsExactlyOnValidDefinitions s
    exact ⟨b, r, hanswers, hfails⟩
  case reset => exact ⟨_, step_reset rfl, rfl⟩
  case works => exact ⟨_, _, answers_effect i s, answers_iff.2 (effectOf_with_fatal hi s.block s.ports false)⟩

end Sys2Proof.Machine
end

section
/-! Reset and hazards (70_reset_and_hazards.md): what a run sees of the staged definition, and the commands right after reset. -/

namespace Sys2Proof.Machine

/-! ### Staged writes do not reach the run (R27, R173) -/

/-- With another staged definition a frame gives the same response, and keeps that definition. -/
theorem frameEffect_with_cfg (b : Block) (d : SignalDefinition) (p : Ports) :
    frameEffect { b with cfg := d } p = ({ (frameEffect b p).1 with cfg := d }, (frameEffect b p).2) := by
  obtain ⟨i, r, h, hd⟩ := frameEffect_of_agree (b := b) (c := { b with cfg := d }) rfl rfl rfl p
  rw [h, hd]

/-- Settles O43: a write changes the staged definition at most, which FRAME does not read. -/
theorem stagedWritesDoNotReachTheRun : Obligations.StagedWritesDoNotReachTheRun := by
  intro s reg p
  refine ⟨_, exec_eq_next.2 rfl, _, _, answers_effect .frame _, ?_⟩
  rw [answers_iff, State.answer_block, effectOf, effectOf, cfgWriteEffect_eq]
  exact frameEffect_with_cfg s.block _ p

/-! ### The commands right after reset (R35, R171) -/

/-- The staged definition at reset has bit width 0 (R35). -/
theorem not_defValid_reset : ¬ DefValid Block.reset.cfg := by
  obtain ⟨-, hinvalid, -⟩ := resetGivesEveryElementItsValue
  exact hinvalid

/-- At reset START fails for the bit width alone: byte offset 0 is in range (R90). -/
theorem startEffect_reset (p : Ports) :
    startEffect Block.reset p = ({ Block.reset with fatal := true, cerrWidth := true }, { status := .outOfRange }) :=
  startEffect_of_not_valid not_defValid_reset p

/-- The two read-only registers show elements that are 0 at reset (R35, R132). -/
theorem readRegister_reset {reg : Register} (h : reg.writable = false) : readRegister reg Block.reset = 0 := by
  cases reg with
  | status | frameCount => rfl
  | _ => cases h

/-- Settles O7: at reset the staged definition is invalid and no run is open, which decides EXTRACT, START and FRAME; STATUS and
FRAME_COUNT are the read-only registers. -/
theorem commandsRightAfterReset : Obligations.CommandsRightAfterReset := by
  intro s (hreset : s.block = Block.reset)
  have hinvalid : ¬ DefValid s.block.cfg := hreset ▸ not_defValid_reset
  have hrun : s.block.run = false := congrArg Block.run hreset
  have hread {reg : Register} (h : reg.writable = false) : Answers (.cfgRead reg) s s.block { status := .ok, rdata := 0 } := by
    have hanswers := answers_cfgRead reg s
    rwa [congrArg (readRegister reg) hreset, readRegister_reset h] at hanswers
  refine ⟨answers_iff.2 (extractEffect_of_not_valid hinvalid s.ports), frameWithoutARunIsNotRunning s hrun, ?_, hread rfl, hread rfl⟩
  rw [answers_iff, effectOf, hreset]
  exact startEffect_reset s.ports

end Sys2Proof.Machine
end
